-- ==== Sys2Proof/Word.lean ====
section
/-! DEFINITION. The words of the GOLAY24 core: every value is an unsigned bit vector of a stated width (00_scope.md R7).
Bit 0 is the least significant bit; `v[i]` is bit `i`. There are no signed values (R7, R9). -/

namespace Sys2Proof

/-- A 12-bit vector: data word, parity word, syndrome, matrix row (`K = 12`, 00_scope.md R5). -/
abbrev V12 := BitVec 12

/-- A 24-bit word: codeword, received word, error pattern, `din`, `dout` (`N = 24`, 00_scope.md R5, 10_state.md R21). -/
abbrev W24 := BitVec 24

/-- The operation select port `op` (10_state.md R21). -/
abbrev OpSel := BitVec 3

/-- A request word `REQ = {op, din}` (30_encoding.md R32). -/
abbrev ReqWord := BitVec 27

/-- A response word `RSP = {ill, fail, dout}` (30_encoding.md R33). -/
abbrev RspWord := BitVec 26

end Sys2Proof
end

