-- ==== Sys2Proof/Machine/Bits.lean ====
section
/-! DEFINITION. The bit-field operators of 00_scope.md R8 that the operations use. `^` is `BitVec.xor`, `&` is `BitVec.and`, and
`<=` on counts is `≤` on `Nat`. -/

namespace Sys2Proof.Machine

open Sys2Proof

/-- `w[11:0]`, the data half of a 24-bit word (00_scope.md R7, 20_memory.md R23). -/
def low (w : W24) : V12 := w.extractLsb' 0 12

/-- `w[23:12]`, the parity half of a 24-bit word (00_scope.md R7, 20_memory.md R23). -/
def high (w : W24) : V12 := w.extractLsb' 12 12

/-- `{a, b}`: `a` in bits 23:12, `b` in bits 11:0; the source's `b | (a << 12)` (00_scope.md R8). -/
def cat (a b : V12) : W24 := a ++ b

/-- `onehot12(i)`: only bit `i` set (00_scope.md R8). -/
def onehot12 (i : Fin 12) : V12 := 1#12 <<< i.val

/-- `zext_24(v)` of a 12-bit vector (00_scope.md R8). -/
def zext24 (v : V12) : W24 := v.setWidth 24

/-- The number of ones among the `k` lowest bits of `w`. -/
def countBits (w : W24) : Nat → Nat
  | 0 => 0
  | k + 1 => countBits w k + (w.getLsbD k).toNat

/-- `wt24(v)`: the number of ones of a 24-bit word; "used only in derived statements and test vectors, never computed by the
hardware" (00_scope.md R8). -/
def wt24 (w : W24) : Nat := countBits w 24

/-- The indices 0 to 11, increasing: "for i in 0..11 (increasing, first match wins)" (00_scope.md R10). -/
def indices12 : List (Fin 12) := [0, 1, 2, 3, 4, 5, 6, 7, 8, 9, 10, 11]

end Sys2Proof.Machine
end

