-- ==== Sys2Proof/Machine/Operands.lean ====
section
/-! DEFINITION. Operand assembly: the three operand formats of 30_encoding.md R34, and the two fields of a request word (R32).
"There are no immediates, no register numbers and no addressing modes" (R34). -/

namespace Sys2Proof.Machine

open Sys2Proof

/-- `REQ[26:24]`, the operation select (30_encoding.md R32). -/
def reqOp (w : ReqWord) : OpSel := w.extractLsb' 24 3

/-- `REQ[23:0]`, the operand port (30_encoding.md R32). -/
def reqDin (w : ReqWord) : W24 := w.extractLsb' 0 24

/-- `REQ = {op, din}` (30_encoding.md R32). -/
def reqWord (op : OpSel) (din : W24) : ReqWord := op ++ din

/-- Format `V12`: `v = din[11:0]` (30_encoding.md R34). -/
def operandV12 (din : W24) : V12 := low din

/-- Format `V12`: `din[23:12]`, which does not reach the logic (30_encoding.md R34, R38). -/
def ignoredV12 (din : W24) : V12 := high din

/-- Format `W24`: received data `rd = din[11:0]` (30_encoding.md R34). -/
def receivedData (din : W24) : V12 := low din

/-- Format `W24`: received parity `rp = din[23:12]` (30_encoding.md R34). -/
def receivedParity (din : W24) : V12 := high din

/-- Format `NONE`: all of `din` is ignored (30_encoding.md R34, R38). -/
def ignoredNone (din : W24) : W24 := din

end Sys2Proof.Machine
end

