-- ==== Sys2Proof/Syntax.lean ====
section
/-! DEFINITION. The operations of the core, one constructor per row of spec/opcode_table.json (30_encoding.md R35). Each carries
every bit of its operand, the ignored ones too (R34, R38), so that no bit of a request is lost in decoding. -/

namespace Sys2Proof

/-- The operation a request names, with its operand cut as its operand format says (30_encoding.md R34, R35). In the `V12`
operations `x` is `din[23:12]`, which the operation ignores (R38); in the `W24` operations `rp = din[23:12]` is the received
parity and `rd = din[11:0]` the received data. -/
inductive Instr where
  /-- `op = 0`, `WT12`: Hamming weight of `v` (R43). -/
  | wt12 (x v : V12)
  /-- `op = 1`, `GTF`: forward generator transform of `v` (R46). -/
  | gtf (x v : V12)
  /-- `op = 2`, `GTA`: alternate generator transform of `v` (R47). -/
  | gta (x v : V12)
  /-- `op = 3`, `ENC`: codeword of the data word `d` (R51). -/
  | enc (x d : V12)
  /-- `op = 4`, `SYN`: syndrome of the received word (R54). -/
  | syn (rp rd : V12)
  /-- `op = 5`, `ELOC`: error pattern of the received word, or Uncorrectable (R55). -/
  | eloc (rp rd : V12)
  /-- `op = 6`, `DEC`: data word of the received word, or Uncorrectable (R61). -/
  | dec (rp rd : V12)
  /-- `op = 7`, the reserved select, spelled `RSV7` in scripts: it names no operation and is answered `ill = 1` (R37). -/
  | rsv7 (x : W24)
deriving DecidableEq, Repr

end Sys2Proof
end

