-- ==== Sys2Proof/Decode.lean ====
section
/-! DEFINITION. The decoder, total on all request words (30_encoding.md R35: "every one of the 2^27 request words selects exactly
one row, and no other bit takes part in the selection"), and after it the encoder, written from the same table. The reserved
select is not refused by the decoder: it has a row and an answer of its own (R37). -/

namespace Sys2Proof

open Sys2Proof.Machine

/-- 30_encoding.md R35: read `REQ[26:24]`; the operation is the row with that code. The operand is cut as R34 says. -/
def decode (w : ReqWord) : Instr :=
  match reqOp w with
  | 0b000#3 => .wt12 (ignoredV12 (reqDin w)) (operandV12 (reqDin w))
  | 0b001#3 => .gtf (ignoredV12 (reqDin w)) (operandV12 (reqDin w))
  | 0b010#3 => .gta (ignoredV12 (reqDin w)) (operandV12 (reqDin w))
  | 0b011#3 => .enc (ignoredV12 (reqDin w)) (operandV12 (reqDin w))
  | 0b100#3 => .syn (receivedParity (reqDin w)) (receivedData (reqDin w))
  | 0b101#3 => .eloc (receivedParity (reqDin w)) (receivedData (reqDin w))
  | 0b110#3 => .dec (receivedParity (reqDin w)) (receivedData (reqDin w))
  | 0b111#3 => .rsv7 (ignoredNone (reqDin w))

/-- The select code of an operation, the column `op` of 30_encoding.md R35. -/
def Instr.op : Instr → OpSel
  | .wt12 _ _ => 0
  | .gtf _ _ => 1
  | .gta _ _ => 2
  | .enc _ _ => 3
  | .syn _ _ => 4
  | .eloc _ _ => 5
  | .dec _ _ => 6
  | .rsv7 _ => 7

/-- The operand word an operation was given, by its operand format (30_encoding.md R34). -/
def Instr.din : Instr → W24
  | .wt12 x v => cat x v
  | .gtf x v => cat x v
  | .gta x v => cat x v
  | .enc x d => cat x d
  | .syn rp rd => cat rp rd
  | .eloc rp rd => cat rp rd
  | .dec rp rd => cat rp rd
  | .rsv7 x => x

/-- The request word of an instruction (30_encoding.md R32). -/
def encode (i : Instr) : ReqWord := reqWord i.op i.din

/-- The row's match word in "match-and-mask form", `op << 24` (30_encoding.md R35). -/
def rowMatch (op : OpSel) : ReqWord := reqWord op 0

/-- The mask of every row in "match-and-mask form" (30_encoding.md R35). -/
def rowMask : ReqWord := 0x7000000#27

/-- The request word in a table word `w` of `nbits` bits, bit 0 least significant. A request has 27 bits and "nothing outside these
27 bits influences the response" (30_encoding.md R32), so the padding above bit 26 of a table word is dropped: log entry 5. -/
def tableWord (nbits w : Nat) : ReqWord := BitVec.ofNat 27 (w % 2 ^ nbits)

/-- What the decoder reads from a word numbered as spec/opcode_table.json numbers it. It never answers `none`: every request word
selects a row (30_encoding.md R35). -/
def decodeTableWord (nbits w : Nat) : Option Instr := some (decode (tableWord nbits w))

end Sys2Proof
end

