-- ==== Sys2Proof/Machine/State.lean ====
section
/-! DEFINITION. The state of a run. The core itself holds nothing: "A model's machine state is the unit type; all that a run
accumulates is the host's own list of responses" (10_state.md R12). So the two fields of `State` are the host's side of the five
ports (R21): the requests it will still present and the exchanges it has had. No response reads either (00_scope.md R11): log
entry 1. -/

namespace Sys2Proof.Machine

open Sys2Proof

/-- The values of the three output ports for one request (10_state.md R21, 30_encoding.md R33). -/
structure Response where
  /-- Result, right-aligned; `0x000000` when `fail` or `ill` is 1 (30_encoding.md R33, R36). -/
  dout : W24
  /-- 1 = Uncorrectable (60_exceptions.md R64). -/
  fail : Bool
  /-- 1 = reserved operation select (60_exceptions.md R65). -/
  ill : Bool
deriving DecidableEq, Repr

/-- One request and its response: "the finite sequence of requests a host presents to one instance, each with its response"
(70_reset_and_hazards.md R81). -/
structure Exchange where
  request : ReqWord
  response : Response
deriving DecidableEq, Repr

/-- The state of a run: the host's side of the ports, and nothing of the core's (10_state.md R12 to R16). -/
structure State where
  /-- The requests the host will present, the next one first (70_reset_and_hazards.md R81). -/
  requests : List ReqWord
  /-- The exchanges of the run so far, oldest first (70_reset_and_hazards.md R81). -/
  exchanges : List Exchange
deriving DecidableEq, Repr

/-- The core has no machine fault: "there is no trap" (60_exceptions.md R69), "No other condition exists" (R66), and a response with
`fail = 1` or `ill = 1` is a result, "not faults of the machine" (70_reset_and_hazards.md R81). So the type has no constructor. -/
inductive Fault where
deriving DecidableEq, Repr

/-- Why the model takes no step. -/
inductive Refusal where
  /-- Raised by an arm of `exec` whose instruction has no meaning in the model. No arm raises it now. Safe. -/
  | notModelled (mnemonic : String)
  /-- Raised by `step` when the host presents no request: the run has ended (70_reset_and_hazards.md R81), and a step is the
  evaluation of one request (00_scope.md R11). Safe: the model stops where the hardware has nothing to answer. Log entry 2. -/
  | noRequest
  /-- Raised by `System.stepAt` for the number of an instance that does not exist (00_scope.md R6). Safe. Log entry 6. -/
  | noInstance
deriving DecidableEq, Repr

/-- What executing one request or one step answers. -/
abbrev Result := Host.Outcome State Fault Refusal

/-- "A model's initial state is the unit value" (70_reset_and_hazards.md R76): the host has presented nothing and holds no response.
Log entries 1 and 3. -/
def State.reset : State := { requests := [], exchanges := [] }

end Sys2Proof.Machine
end

