-- ==== Sys2Proof/Machine/Flags.lean ====
section
/-! DEFINITION. The two condition bits of a response and how they are encoded (60_exceptions.md R64, R65; 30_encoding.md R33).
The core stores no flag (10_state.md R14). -/

namespace Sys2Proof.Machine

open Sys2Proof

/-- `respond_ok(v)`'s response: the result with `fail = 0`, `ill = 0` (00_scope.md R10). -/
def rspOk (v : W24) : Response := { dout := v, fail := false, ill := false }

/-- The response of Uncorrectable: `fail = 1`, `ill = 0`, and the filler `0x000000` (60_exceptions.md R64). Log entry 4. -/
def rspUncorrectable : Response := { dout := 0#24, fail := true, ill := false }

/-- The response of IllegalOp: `ill = 1`, `fail = 0`, `dout = 0x000000` (60_exceptions.md R65). -/
def rspIllegal : Response := { dout := 0#24, fail := false, ill := true }

/-- The response to a request whose result may be missing: a found value is a success, none is Uncorrectable (30_encoding.md R36,
rows `ELOC` and `DEC`). -/
def rspOption : Option W24 → Response
  | some v => rspOk v
  | none => rspUncorrectable

/-- The response word `RSP = {ill, fail, dout}` (30_encoding.md R33). -/
def Response.word (r : Response) : RspWord := BitVec.ofBool r.ill ++ BitVec.ofBool r.fail ++ r.dout

/-- The value a host may use: only a success carries one (30_encoding.md R33, 70_reset_and_hazards.md R79). -/
def Response.usable (r : Response) : Option W24 := if r.fail || r.ill then none else some r.dout

end Sys2Proof.Machine
end

