-- ==== Sys2Proof/Machine/Ops.lean ====
section
/-! DEFINITION. The operations all meanings share: the `respond` primitives of 00_scope.md R10, and the host's presenting of a
request. Reporting a condition is one of them: it is the response of that request and has no other effect, since "a condition
does not save state, does not change a mode or a mask, does not use a stack and does not send control anywhere"
(60_exceptions.md R69); nothing is entered, so there is no return beside it (R70). -/

namespace Sys2Proof.Machine

open Sys2Proof

/-- `s` after the request `q` was answered `r`: the host's record grows by this exchange, and nothing else changes
(20_memory.md R25, 60_exceptions.md R69). -/
def State.answered (s : State) (q : ReqWord) (r : Response) : State :=
  { s with exchanges := s.exchanges ++ [{ request := q, response := r }] }

/-- `respond(dout, fail, ill)`: drive the response and end the evaluation of the request (00_scope.md R10). -/
def respond (q : ReqWord) (r : Response) (s : State) : Result := .next (s.answered q r)

/-- `respond_ok(v)` (00_scope.md R10). -/
def respondOk (q : ReqWord) (v : W24) (s : State) : Result := respond q (rspOk v) s

/-- `respond_illegal()` (00_scope.md R10). -/
def respondIllegal (q : ReqWord) (s : State) : Result := respond q rspIllegal s

/-- `respond_ok(v)` where a value was found, else `respond_uncorrectable()` (00_scope.md R10). -/
def respondOption (q : ReqWord) (r : Option W24) (s : State) : Result := respond q (rspOption r) s

/-- The host presents `w` as the next request (00_scope.md R11). -/
def State.present (s : State) (w : ReqWord) : State := { s with requests := w :: s.requests }

/-- The request on the ports, and the state with that request taken; `none` when the host presents none (70_reset_and_hazards.md
R81). -/
def State.takeRequest (s : State) : Option (ReqWord × State) :=
  match s.requests with
  | [] => none
  | w :: rest => some (w, { s with requests := rest })

end Sys2Proof.Machine
end

