-- ==== Sys2Proof/Machine/Tables.lean ====
section
/-! DEFINITION. The constants of the core: the two matrices and the parameters of the code (00_scope.md R5). They are fixed when
the hardware is built and nothing can write them (10_state.md R17, 20_memory.md R30). -/

namespace Sys2Proof.Machine

open Sys2Proof

/-- A matrix of `NROWS = 12` rows of 12 bits; `M[i]` is row `i` (10_state.md R17). -/
abbrev Matrix12 := Vector V12 12

/-- The forward matrix `FWD` (10_state.md R18). -/
def fwd : Matrix12 :=
  #v[0xC75#12, 0x49F#12, 0xD4B#12, 0x6E3#12, 0x9B3#12, 0xB66#12,
     0xECC#12, 0x1ED#12, 0x3DA#12, 0x7B4#12, 0xB1D#12, 0xE3A#12]

/-- The alternate matrix `ALT` (10_state.md R19). -/
def alt : Matrix12 :=
  #v[0x49F#12, 0x93E#12, 0x6E3#12, 0xDC6#12, 0xF13#12, 0xAB9#12,
     0x1ED#12, 0x3DA#12, 0x7B4#12, 0xF68#12, 0xA4F#12, 0xC75#12]

/-- `TH_DIRECT`, the weight threshold of locator steps 2 and 4 (00_scope.md R5). -/
def thDirect : Nat := 3

/-- `TH_SEARCH`, the weight threshold of locator steps 3 and 5 (00_scope.md R5). -/
def thSearch : Nat := 2

/-- `T`, the number of bit errors always corrected (00_scope.md R5). The hardware does not compute with it; claims do. -/
def maxErrors : Nat := 3

/-- `DMIN`, the minimum Hamming distance of the code (00_scope.md R5). The hardware does not compute with it; claims do. -/
def minDistance : Nat := 8

end Sys2Proof.Machine
end

