-- ==== Sys2Proof/Machine/GeneratorTransform.lean ====
section
/-! DEFINITION. Component 2, the generator transform with either matrix, and its operations `GTF` and `GTA`
(41_generator_transform.md). -/

namespace Sys2Proof.Machine

open Sys2Proof

/-- `GT(M, x)`: start from 0; for `i` from 0 to 11, if bit `i` of `x` is 1, XOR row `M[i]` into the result
(41_generator_transform.md R45). -/
def gt (M : Matrix12) (x : V12) : V12 :=
  indices12.foldl (fun acc i => if x[i] then acc ^^^ M[i] else acc) 0#12

/-- `GTF` (41_generator_transform.md R46). -/
def execGtf (x v : V12) (s : State) : Result :=
  respondOk (encode (.gtf x v)) (zext24 (gt fwd v)) s

/-- `GTA` (41_generator_transform.md R47). -/
def execGta (x v : V12) (s : State) : Result :=
  respondOk (encode (.gta x v)) (zext24 (gt alt v)) s

end Sys2Proof.Machine
end

