-- ==== Sys2Proof/Machine/HammingWeight.lean ====
section
/-! DEFINITION. Component 1, Hamming weight, and its operation `WT12` (40_hamming_weight.md). -/

namespace Sys2Proof.Machine

open Sys2Proof

/-- `wt12(v)`: the integer sum of the twelve bits (40_hamming_weight.md R43). -/
def wt12 (v : V12) : Nat :=
  v[0].toNat + v[1].toNat + v[2].toNat + v[3].toNat + v[4].toNat + v[5].toNat +
  v[6].toNat + v[7].toNat + v[8].toNat + v[9].toNat + v[10].toNat + v[11].toNat

/-- The count in `dout[3:0]`, with `dout[23:4] = 0` (30_encoding.md R36). -/
def weightOut (n : Nat) : W24 := (BitVec.ofNat 4 n).setWidth 24

/-- `WT12` (40_hamming_weight.md R43). -/
def execWt12 (x v : V12) (s : State) : Result :=
  respondOk (encode (.wt12 x v)) (weightOut (wt12 v)) s

end Sys2Proof.Machine
end

