-- ==== Sys2Proof/Machine/ErrorLocator.lean ====
section
/-! DEFINITION. Component 4, the syndrome and the error locator, and their operations `SYN` and `ELOC`
(43_syndrome_error_locator.md). -/

namespace Sys2Proof.Machine

open Sys2Proof

/-- The syndrome of a received word: `rp ^ GT(FWD, rd)` (43_syndrome_error_locator.md R54). -/
def syndrome (w : W24) : V12 := receivedParity w ^^^ gt fwd (receivedData w)

/-- Step 3's candidate `c = s ^ FWD[i]` (43_syndrome_error_locator.md R55). -/
def dataCandidate (s : V12) (i : Fin 12) : V12 := s ^^^ fwd[i]

/-- Step 5's candidate `c = v ^ ALT[i]`, for `v = GT(ALT, s)` (43_syndrome_error_locator.md R55). -/
def parityCandidate (v : V12) (i : Fin 12) : V12 := v ^^^ alt[i]

/-- Step 3: one data-bit error at position `i`, at most two parity-bit errors; the first match wins
(43_syndrome_error_locator.md R55). -/
def searchDataBit (s : V12) : Option W24 :=
  indices12.findSome? fun i =>
    if wt12 (dataCandidate s i) ≤ thSearch then some (cat (dataCandidate s i) (onehot12 i)) else none

/-- Step 5: one parity-bit error at position `i`, at most two data-bit errors; the first match wins
(43_syndrome_error_locator.md R55). -/
def searchParityBit (v : V12) : Option W24 :=
  indices12.findSome? fun i =>
    if wt12 (parityCandidate v i) ≤ thSearch then some (cat (onehot12 i) (parityCandidate v i)) else none

/-- Steps 2 to 6 on the syndrome `s`: the error pattern, or `none` for Uncorrectable (43_syndrome_error_locator.md R55). -/
def locate (s : V12) : Option W24 :=
  if wt12 s ≤ thDirect then some (cat s 0#12)
  else match searchDataBit s with
    | some e => some e
    | none =>
      let v := gt alt s
      if wt12 v ≤ thDirect then some (cat 0#12 v)
      else searchParityBit v

/-- The error locator on a received word: step 1, then steps 2 to 6 (43_syndrome_error_locator.md R55). -/
def errorPattern (w : W24) : Option W24 := locate (syndrome w)

/-- All 26 conditions of 43_syndrome_error_locator.md R57 item 3 at once, each with the pattern it returns, in the priority order of
R59: step 2, step 3 by rising `i`, step 4, step 5 by rising `i`. -/
def locatorCandidates (s : V12) : List (Bool × W24) :=
  (decide (wt12 s ≤ thDirect), cat s 0#12) ::
  indices12.map (fun i => (decide (wt12 (dataCandidate s i) ≤ thSearch), cat (dataCandidate s i) (onehot12 i))) ++
  (decide (wt12 (gt alt s) ≤ thDirect), cat 0#12 (gt alt s)) ::
  indices12.map (fun i =>
    (decide (wt12 (parityCandidate (gt alt s) i) ≤ thSearch), cat (onehot12 i) (parityCandidate (gt alt s) i)))

/-- The patterns of the conditions that hold, in priority order. -/
def matchingPatterns (s : V12) : List W24 := ((locatorCandidates s).filter (·.1)).map (·.2)

/-- The locator built in parallel: evaluate all conditions, select by priority (43_syndrome_error_locator.md R59). -/
def locateParallel (s : V12) : Option W24 := (matchingPatterns s).head?

/-- `SYN` (43_syndrome_error_locator.md R54). -/
def execSyn (rp rd : V12) (s : State) : Result :=
  respondOk (encode (.syn rp rd)) (zext24 (syndrome (cat rp rd))) s

/-- `ELOC` (43_syndrome_error_locator.md R55). -/
def execEloc (rp rd : V12) (s : State) : Result :=
  respondOption (encode (.eloc rp rd)) (errorPattern (cat rp rd)) s

end Sys2Proof.Machine
end

