-- ==== Sys2Proof/Machine/Decoder.lean ====
section
/-! DEFINITION. Component 5, the decoder, and its operation `DEC` (44_decoder.md). -/

namespace Sys2Proof.Machine

open Sys2Proof

/-- The corrected data word `rd ^ e_d`, with `e_d` the pattern's data-bit component; `none` when the locator reports Uncorrectable
(44_decoder.md R61). -/
def correctedData (w : W24) : Option V12 := (errorPattern w).map fun e => receivedData w ^^^ low e

/-- `DEC` (44_decoder.md R61). -/
def execDec (rp rd : V12) (s : State) : Result :=
  respondOption (encode (.dec rp rd)) ((correctedData (cat rp rd)).map zext24) s

end Sys2Proof.Machine
end

