-- ==== Sys2Proof/Machine/Encoder.lean ====
section
/-! DEFINITION. Component 3, the systematic encoder, and its operation `ENC` (42_encoder.md). -/

namespace Sys2Proof.Machine

open Sys2Proof

/-- The codeword `{GT(FWD, d), d}` of a data word (42_encoder.md R51). -/
def codeword (d : V12) : W24 := cat (gt fwd d) d

/-- `ENC` (42_encoder.md R51). -/
def execEnc (x d : V12) (s : State) : Result :=
  respondOk (encode (.enc x d)) (codeword d) s

end Sys2Proof.Machine
end

