-- ==== Sys2Proof/Machine/Reserved.lean ====
section
/-! DEFINITION. The reserved operation select (30_encoding.md R37). -/

namespace Sys2Proof.Machine

open Sys2Proof

/-- `op = 7`: `respond_illegal()`, whatever `din` holds; "Nothing else happens: there is no trap and no state to change"
(30_encoding.md R37). -/
def execRsv7 (x : W24) (s : State) : Result := respondIllegal (encode (.rsv7 x)) s

end Sys2Proof.Machine
end

