-- ==== Sys2Proof/Machine/Dispatch.lean ====
section
/-! DEFINITION. One arm per row of the operation map (30_encoding.md R35). -/

namespace Sys2Proof.Machine

open Sys2Proof

def exec (i : Instr) (s : State) : Host.Outcome State Fault Refusal :=
  match i with
  | .wt12 x v => Sys2Proof.Machine.execWt12 x v s
  | .gtf x v => Sys2Proof.Machine.execGtf x v s
  | .gta x v => Sys2Proof.Machine.execGta x v s
  | .enc x d => Sys2Proof.Machine.execEnc x d s
  | .syn rp rd => Sys2Proof.Machine.execSyn rp rd s
  | .eloc rp rd => Sys2Proof.Machine.execEloc rp rd s
  | .dec rp rd => Sys2Proof.Machine.execDec rp rd s
  | .rsv7 x => Sys2Proof.Machine.execRsv7 x s

end Sys2Proof.Machine
end

