-- ==== Sys2Proof/Machine/Step.lean ====
section
/-! DEFINITION. One step: the evaluation of one request (00_scope.md R11). -/

namespace Sys2Proof.Machine

open Sys2Proof

/-- The host presents its next request, the core answers it (00_scope.md R11). With no request left the run has ended
(70_reset_and_hazards.md R81) and there is no step to take: log entry 2. -/
def step (s : State) : Host.Outcome State Fault Refusal :=
  match s.takeRequest with
  | none => .refused .noRequest
  | some (w, s') => exec (decode w) s'

/-- `s` with the request in the table word `w` presented next. The core fetches nothing (10_state.md R13): its next instruction is the
next request of the host, so this is the host presenting it. Log entry 3. -/
def State.withFetchWord (s : State) (nbits w : Nat) : State := s.present (tableWord nbits w)

end Sys2Proof.Machine
end

