-- ==== Sys2Proof/Machine/DedicatedPorts.lean ====
section
/-! DEFINITION. The equivalent boundary with dedicated ports (30_encoding.md R42): "exactly the source's two-function boundary". On a
dedicated port there is no select code and there are no ignored bits. -/

namespace Sys2Proof.Machine

open Sys2Proof

/-- "a 12-bit-in, 24-bit-out encoder" (30_encoding.md R42): the source's `encode(data)` (10_state.md R21). -/
def encoderPort (data : V12) : W24 := codeword data

/-- "a 24-bit-in, 12-bit-plus-`fail`-out decoder" (30_encoding.md R42): the source's `decode(word)` (10_state.md R21), with the
filler 0 beside `fail = 1` as on the common port (D8, log entry 4). -/
def decoderPort (word : W24) : V12 × Bool :=
  match correctedData word with
  | some m => (m, false)
  | none => (0#12, true)

end Sys2Proof.Machine
end

