-- ==== Sys2Proof/Config.lean ====
section
/-! DEFINITION. What the spec leaves to whoever builds the hardware, and to the host. Two parameters are open (92_eei_decisions.md, "Parameters
left open"): `N_INST`, below, and `T_PD`, which no rule reads and the model has no time to show (70_reset_and_hazards.md R80).
Every other width, constant, threshold and code is fixed (00_scope.md R5) and stands in Word and Machine/Tables. Of the host's
script notation one point is open: which line a name stands for that several lines define (30_encoding.md R40). -/

namespace Sys2Proof

/-- `N_INST >= 1`, the number of independent instances of the core side by side (00_scope.md R6, D13). It is set by the platform,
so nothing here says which number it is: no body, no value a proof could use. -/
opaque Config.nInst : ℕ+

/-- Which of its definitions a script's name stands for where there are several, from the name and the response words recorded under
it, the latest first. 30_encoding.md R40 does not say (log entry 9): no body, no value a proof could use. The model takes the number
modulo how many definitions there are. -/
opaque Config.chosenDefinition : Nat → List RspWord → Nat

end Sys2Proof
end

