-- ==== Sys2Proof/Machine/Script.lean ====
section
/-! DEFINITION. The host's script notation (30_encoding.md R40): its abstract syntax, its well-formedness and its meaning. The host
computes each operand, presents the request to the core and records the response under the line's name; "The XOR in an operand
is done by the host, never by the core" (R40). There are no pseudo-operations (R41). -/

namespace Sys2Proof.Machine

open Sys2Proof

/-- A script's mnemonics (30_encoding.md R40); `rsv7` is the reserved code 7. -/
inductive Mnemonic where
  | wt12 | gtf | gta | enc | syn | eloc | dec | rsv7
deriving DecidableEq, Repr

/-- The `op` of a mnemonic (30_encoding.md R35). -/
def Mnemonic.op : Mnemonic → OpSel
  | .wt12 => 0
  | .gtf => 1
  | .gta => 2
  | .enc => 3
  | .syn => 4
  | .eloc => 5
  | .dec => 6
  | .rsv7 => 7

/-- `term := hexliteral | name` (30_encoding.md R40). A name is the number after its `r`. -/
inductive Term where
  | literal (value : Nat)
  | name (r : Nat)
deriving DecidableEq, Repr

/-- `line := [ name "=" ] mnemonic operand`, `operand := term ( "^" term )*` (30_encoding.md R40). -/
structure Line where
  target : Option Nat
  mnemonic : Mnemonic
  first : Term
  others : List Term
deriving DecidableEq, Repr

/-- `script := line*` (30_encoding.md R40). -/
abbrev Script := List Line

/-- A literal has a "value below 2^24"; a name stands for an earlier line's result, so it is defined before its use
(30_encoding.md R40). -/
def Term.wellFormed (defined : List Nat) : Term → Bool
  | .literal value => decide (value < 2 ^ 24)
  | .name r => defined.contains r

/-- A line is well formed if its terms are. Its own name may be one that an earlier line defined: 30_encoding.md R40 names no such
script ill-formed. -/
def Line.wellFormed (defined : List Nat) (l : Line) : Bool :=
  (l.first :: l.others).all (Term.wellFormed defined)

/-- The part of 30_encoding.md R40's well-formedness that the text alone decides: literals in range, no name used before its
definition. That no used response failed is known only when the script is evaluated (`evalTerm`). -/
def scriptWellFormed (defined : List Nat) : Script → Bool
  | [] => true
  | l :: ls => l.wellFormed defined && scriptWellFormed (l.target.toList ++ defined) ls

/-- The responses recorded so far under a name, the latest first. -/
abbrev Records := List (Nat × Response)

/-- The responses of the lines that have defined the name `n`, the latest first. -/
def definitions (env : Records) (n : Nat) : List Response :=
  (env.filter fun x => x.1 == n).map (·.2)

/-- The response a name stands for, among those of the lines that defined it: the one there is (30_encoding.md R40, "the earlier line
that defined it"). R40 does not say which line is meant where there are several: DESIGN CHOICE, one of them, and nothing says
which (log entry 9). -/
def meaningOfName (n : Nat) : List Response → Option Response
  | [] => none
  | [r] => some r
  | r :: r' :: rs =>
    (r :: r' :: rs)[Config.chosenDefinition n ((r :: r' :: rs).map Response.word) % (r :: r' :: rs).length]?

/-- A literal is zero-extended to 24 bits; a name stands for the `dout` of the line that defined it, which must have been a success
(30_encoding.md R40). -/
def evalTerm (env : Records) : Term → Option W24
  | .literal value => if value < 2 ^ 24 then some (BitVec.ofNat 24 value) else none
  | .name n => (meaningOfName n (definitions env n)).bind Response.usable

/-- The host's XOR of the remaining terms into `acc`. -/
def evalOthers (env : Records) (acc : W24) : List Term → Option W24
  | [] => some acc
  | t :: ts => (evalTerm env t).bind fun v => evalOthers env (acc ^^^ v) ts

/-- The 24-bit operand of a line (30_encoding.md R40). -/
def evalOperand (env : Records) (l : Line) : Option W24 :=
  (evalTerm env l.first).bind fun v => evalOthers env v l.others

/-- The request word of a line (30_encoding.md R40: "presents `REQ = {op, operand}` with the `op` of the mnemonic"). -/
def lineRequest (env : Records) (l : Line) : Option ReqWord :=
  (evalOperand env l).map fun v => reqWord l.mnemonic.op v

/-- Record a response under the line's name, if it has one. -/
def recordResponse (target : Option Nat) (r : Response) (env : Records) : Records :=
  match target with
  | none => env
  | some n => (n, r) :: env

/-- One line: the host computes the operand, presents the request, the core takes one step, the host records the response
(30_encoding.md R40). `none`: the line has no meaning. -/
def runLine (l : Line) (env : Records) (s : State) : Option (Records × State) :=
  (lineRequest env l).bind fun w =>
    match step (s.present w) with
    | .next t => (t.exchanges.getLast?).map fun x => (recordResponse l.target x.response env, t)
    | .fault _ => none
    | .refused _ => none

/-- "The lines are evaluated in order by the host" (30_encoding.md R40). -/
def runLines : Script → Records → State → Option (Records × State)
  | [], env, s => some (env, s)
  | l :: ls, env, s => (runLine l env s).bind fun p => runLines ls p.1 p.2

/-- The meaning of a script on a core whose state is `s`; an ill-formed one has none (30_encoding.md R40). -/
def runScript (p : Script) (s : State) : Option (Records × State) :=
  if scriptWellFormed [] p then runLines p [] s else none

end Sys2Proof.Machine
end

