-- ==== Sys2Proof/Machine/System.lean ====
section
/-! DEFINITION. `N_INST` instances of the core side by side (00_scope.md R6, 20_memory.md R27, 60_exceptions.md R74). They have no
identifiers of their own and share nothing; a number here is only the place in the list. Which instance moves next is chosen
from outside, step by step; evaluations at the same time are taken one after the other: log entry 6. -/

namespace Sys2Proof.Machine

open Sys2Proof

/-- The states of the instances. -/
abbrev System := List State

/-- All instances right after power-up (70_reset_and_hazards.md R76). -/
def System.reset : System := List.replicate Config.nInst.val State.reset

/-- Instance `k` evaluates its next request; every other instance is left as it is (20_memory.md R27). -/
def System.stepAt (sys : System) (k : Nat) : Host.Outcome System Fault Refusal :=
  match sys[k]? with
  | none => .refused .noInstance
  | some s =>
    match step s with
    | .next s' => .next (sys.set k s')
    | .fault f => .fault f
    | .refused r => .refused r

/-- The instances named in the list take one step each, in that order. -/
def System.runSchedule (sys : System) : List Nat → Host.Outcome System Fault Refusal
  | [] => .next sys
  | k :: ks =>
    match sys.stepAt k with
    | .next sys' => System.runSchedule sys' ks
    | .fault f => .fault f
    | .refused r => .refused r

end Sys2Proof.Machine
end

