-- ==== Sys2Proof/WellFormed.lean ====
section
/-! DEFINITION. Which instructions are well formed: all of them. "No operand value is illegal: every 24-bit `din` is accepted by
every operation" (60_exceptions.md R66), and the widths of the operands are in their types (30_encoding.md R34). The notation
that does have ill-formed terms is the host's script, whose checks stand in Machine/Script (30_encoding.md R40). -/

namespace Sys2Proof

/-- 60_exceptions.md R66: no operand value is illegal. One arm per constructor, so that a new operation cannot slip past. -/
def Instr.wellFormed : Instr → Bool
  | .wt12 _ _ => true
  | .gtf _ _ => true
  | .gta _ _ => true
  | .enc _ _ => true
  | .syn _ _ => true
  | .eloc _ _ => true
  | .dec _ _ => true
  | .rsv7 _ => true

end Sys2Proof
end

