-- ==== Sys2Proof/Safety.lean ====
section
/-! DEFINITION. The terms claims about a run use: what a valid codeword is, what a response must be for its request whichever way it
was computed, and the invariant of a run. -/

namespace Sys2Proof.Machine

open Sys2Proof

/-- "A *valid* codeword is a 24-bit `w` with `w[23:12] = GTF(w[11:0])`" (00_scope.md, glossary). -/
abbrev IsCodeword (w : W24) : Prop := high w = gt fwd (low w)

/-- Hamming distance: "the number of bit positions in which two vectors of equal width differ" (00_scope.md, glossary). -/
def distance (a b : W24) : Nat := wt24 (a ^^^ b)

/-- The number of the 4096 12-bit vectors that `p` holds of. -/
def countV12 (p : V12 → Bool) : Nat := (List.range 4096).countP fun k => p (BitVec.ofNat 12 k)

/-- `y` is the XOR of the rows of `M` that the ones of `x` select, said bit by bit: bit `j` of `y` is the parity of the number of
selected rows whose bit `j` is 1 (41_generator_transform.md R45). -/
def IsRowXor (M : Matrix12) (x y : V12) : Prop :=
  ∀ j : Fin 12, y[j] = decide ((indices12.countP fun i => x[i] && M[i][j]) % 2 = 1)

/-- The core answers the request `w` with `r`: wherever the host presents `w` next, the step records this exchange, takes the request,
and changes nothing else (00_scope.md R11, 20_memory.md R25). -/
def Answers (w : ReqWord) (r : Response) : Prop :=
  ∀ (rest : List ReqWord) (ex : List Exchange),
    step { requests := w :: rest, exchanges := ex } =
      .next { requests := rest, exchanges := ex ++ [{ request := w, response := r }] }

/-- No condition of the locator holds for the syndrome `s` (60_exceptions.md R64, "exact cause"). -/
abbrev NoCandidate (s : V12) : Prop :=
  ¬ wt12 s ≤ 3 ∧ (∀ i : Fin 12, ¬ wt12 (s ^^^ fwd[i]) ≤ 2) ∧
  ¬ wt12 (gt alt s) ≤ 3 ∧ (∀ i : Fin 12, ¬ wt12 (gt alt s ^^^ alt[i]) ≤ 2)

/-- What a response owes its request, said without the algorithm that computes it: the response formats of 30_encoding.md R33 and
R36, the condition rules of 60_exceptions.md R64, R65, R68, and the promises of 42_encoder.md R53, 43_syndrome_error_locator.md
R56 to R58 and 44_decoder.md R62. -/
structure Sound (x : Exchange) : Prop where
  /-- `ill` is the reserved select's answer and nothing else's (R65). -/
  ill_iff : x.response.ill = true ↔ reqOp x.request = 7#3
  /-- Only `ELOC` and `DEC` can fail (R64). -/
  fail_op : x.response.fail = true → reqOp x.request = 5#3 ∨ reqOp x.request = 6#3
  /-- The filler (R33). -/
  filler : x.response.fail = true ∨ x.response.ill = true → x.response.dout = 0#24
  /-- A weight is at most 12 (R44). -/
  weight_le : reqOp x.request = 0#3 → x.response.dout.toNat ≤ 12
  /-- 12-bit results are right-aligned (R36). -/
  narrow : reqOp x.request = 1#3 ∨ reqOp x.request = 2#3 ∨ reqOp x.request = 4#3 ∨ reqOp x.request = 6#3 →
    high x.response.dout = 0#12
  /-- The code is systematic and every encoded word is a valid codeword (R51, R53). -/
  encoded : reqOp x.request = 3#3 → IsCodeword x.response.dout ∧ low x.response.dout = low (reqDin x.request)
  /-- The syndrome is zero exactly for valid codewords (R56). -/
  syndrome_zero : reqOp x.request = 4#3 → (x.response.dout = 0#24 ↔ IsCodeword (reqDin x.request))
  /-- A located pattern has weight at most 3 and leads to a valid codeword (R57). -/
  located : reqOp x.request = 5#3 → x.response.fail = false →
    wt24 x.response.dout ≤ maxErrors ∧ IsCodeword (reqDin x.request ^^^ x.response.dout)
  /-- A decoded word is the data of a valid codeword within distance 3 (R62). -/
  decoded : reqOp x.request = 6#3 → x.response.fail = false →
    ∃ c, IsCodeword c ∧ distance (reqDin x.request) c ≤ maxErrors ∧ low c = low x.response.dout
  /-- Uncorrectable: every valid codeword is at distance 4 or more (R58). -/
  uncorrectable : x.response.fail = true → ∀ c, IsCodeword c → maxErrors < distance (reqDin x.request) c

/-- Every exchange of the run so far is sound. -/
def State.Inv (s : State) : Prop := ∀ x ∈ s.exchanges, Sound x

/-- The response a core that has never answered anything gives to `w`: the function of the request that the spec says the whole
core is (00_scope.md R11). `none` where a step answers no response. -/
def freshResponse (w : ReqWord) : Option Response :=
  match step (State.reset.present w) with
  | .next t => (t.exchanges.getLast?).map (·.response)
  | .fault _ => none
  | .refused _ => none

end Sys2Proof.Machine
end

