-- ==== Sys2Proof/Certificates/Slice0/Obligations.lean ====
section
/-! DEFINITION. The statements for the provers, from the numbered rules of spec/. Nothing is proved here. `Answers w r`,
`IsCodeword`, `IsRowXor`, `NoCandidate`, `Sound` and `State.Inv` are in Safety. -/

open Sys2Proof Sys2Proof.Machine

-- Encoding and the step

/-- 00_scope.md R11, 30_encoding.md R35: one step is the evaluation of the request the host presents, by the operation its bits
select. What the step adds around `exec` is that the request is taken. -/
def Obligations.StepRunsDecodedRequest : Prop :=
  ∀ (w : ReqWord) (rest : List ReqWord) (ex : List Exchange),
    step { requests := w :: rest, exchanges := ex } = exec (decode w) { requests := rest, exchanges := ex }

/-- 30_encoding.md R35 and spec/opcode_table.json: words written out from the table decode to the operation they stand for. -/
def Obligations.TableWordsDecode : Prop :=
  decode 0b000_101010111100_000100100011#27 = .wt12 0xABC 0x123 ∧
  decode 0b001_000000000000_000100100011#27 = .gtf 0x000 0x123 ∧
  decode 0b010_000000000000_000001010110#27 = .gta 0x000 0x056 ∧
  decode 0b011_101010111100_000100100011#27 = .enc 0xABC 0x123 ∧
  decode 0b100_000101010100_000100000011#27 = .syn 0x154 0x103 ∧
  decode 0b101_000101010100_000100000011#27 = .eloc 0x154 0x103 ∧
  decode 0b110_000101010100_000100000011#27 = .dec 0x154 0x103 ∧
  decode 0b111_000001010110_000100100011#27 = .rsv7 0x056123

/-- 30_encoding.md R32, R34, R35: every well-formed operation is read back from its request word with every operand bit, and every
request word is the encoding of the operation it decodes to; no operation is ill formed (60_exceptions.md R66). -/
def Obligations.EncodeDecodeAgree : Prop :=
  (∀ i : Instr, i.wellFormed = true → decode (encode i) = i) ∧
  (∀ w : ReqWord, encode (decode w) = w ∧ (decode w).wellFormed = true)

/-- 30_encoding.md R35: "In match-and-mask form every row has mask `0x7000000` and match `op << 24`": a request word selects exactly
the row whose match it has under the mask. -/
def Obligations.MaskAndMatchSelectTheRow : Prop :=
  ∀ (w : ReqWord) (op : OpSel),
    (w &&& 0x7000000#27 = BitVec.ofNat 27 (op.toNat * 2 ^ 24)) ↔ (decode w).op = op

/-- 30_encoding.md R32: `REQ = {op, din}`, with `op` in bits 26:24 and `din` in bits 23:0. -/
def Obligations.RequestWordLayout : Prop :=
  ∀ i : Instr, (encode i).toNat = i.op.toNat * 2 ^ 24 + i.din.toNat

/-- The model's interface, not a rule of the spec (log entries 3 and 5): a table word presented by `withFetchWord` is the request the
next step runs, and it is the one the decoder reads. -/
def Obligations.PresentedTableWordRuns : Prop :=
  ∀ (nbits w : Nat) (s : State), ∃ i,
    decodeTableWord nbits w = some i ∧ step (s.withFetchWord nbits w) = exec i s

/-- 30_encoding.md R33: `ill` is bit 25, `fail` bit 24, `dout` bits 23:0 of the response word; only a response with `ill = 0` and
`fail = 0` carries a usable value, and one with either set carries none. -/
def Obligations.ResponseWordLayout : Prop :=
  ∀ r : Response,
    r.word.getLsbD 25 = r.ill ∧ r.word.getLsbD 24 = r.fail ∧ r.word.extractLsb' 0 24 = r.dout ∧
    (r.usable = some r.dout ↔ r.fail = false ∧ r.ill = false) ∧ (r.usable = none ↔ r.fail = true ∨ r.ill = true)

-- The operations, one completion statement for each

/-- 40_hamming_weight.md R43: `WT12` answers the number of ones of `v`, in every state, whatever the ignored bits hold. -/
def Obligations.Wt12AnswersCountOfOnes : Prop :=
  ∀ (x v : V12) (s : State),
    exec (.wt12 x v) s = .next (s.answered (encode (.wt12 x v))
      { dout := BitVec.ofNat 24 ((List.range 12).countP fun i => v.getLsbD i), fail := false, ill := false })

/-- 41_generator_transform.md R46: `GTF` answers the XOR of the forward rows selected by the ones of `v`; the one-hot operands read out
the table, 0 gives 0 and all ones gives all ones. -/
def Obligations.GtfAnswersForwardRowXor : Prop :=
  (∀ (x v : V12) (s : State), ∃ y : V12, IsRowXor fwd v y ∧
    exec (.gtf x v) s = .next (s.answered (encode (.gtf x v)) { dout := y.setWidth 24, fail := false, ill := false })) ∧
  (∀ (x : V12) (s : State) (i : Fin 12),
    exec (.gtf x (onehot12 i)) s = .next (s.answered (encode (.gtf x (onehot12 i)))
      { dout := (#v[0xC75#24, 0x49F#24, 0xD4B#24, 0x6E3#24, 0x9B3#24, 0xB66#24, 0xECC#24, 0x1ED#24, 0x3DA#24, 0x7B4#24,
          0xB1D#24, 0xE3A#24])[i], fail := false, ill := false })) ∧
  (∀ (x : V12) (s : State),
    exec (.gtf x 0x000) s = .next (s.answered (encode (.gtf x 0x000)) { dout := 0x000000, fail := false, ill := false }) ∧
    exec (.gtf x 0xFFF) s = .next (s.answered (encode (.gtf x 0xFFF)) { dout := 0x000FFF, fail := false, ill := false }))

/-- 41_generator_transform.md R47: `GTA`, the same with the alternate matrix. -/
def Obligations.GtaAnswersAlternateRowXor : Prop :=
  (∀ (x v : V12) (s : State), ∃ y : V12, IsRowXor alt v y ∧
    exec (.gta x v) s = .next (s.answered (encode (.gta x v)) { dout := y.setWidth 24, fail := false, ill := false })) ∧
  (∀ (x : V12) (s : State) (i : Fin 12),
    exec (.gta x (onehot12 i)) s = .next (s.answered (encode (.gta x (onehot12 i)))
      { dout := (#v[0x49F#24, 0x93E#24, 0x6E3#24, 0xDC6#24, 0xF13#24, 0xAB9#24, 0x1ED#24, 0x3DA#24, 0x7B4#24, 0xF68#24,
          0xA4F#24, 0xC75#24])[i], fail := false, ill := false })) ∧
  (∀ (x : V12) (s : State),
    exec (.gta x 0x000) s = .next (s.answered (encode (.gta x 0x000)) { dout := 0x000000, fail := false, ill := false }) ∧
    exec (.gta x 0xFFF) s = .next (s.answered (encode (.gta x 0xFFF)) { dout := 0x000FFF, fail := false, ill := false }))

/-- 42_encoder.md R51: `ENC` answers `{p, d}`, with `p` the XOR of the forward rows selected by the data word `d`; the one-hot data
words give `{FWD[i], onehot12(i)}`. -/
def Obligations.EncAnswersSystematicCodeword : Prop :=
  (∀ (x d : V12) (s : State), ∃ p : V12, IsRowXor fwd d p ∧
    exec (.enc x d) s = .next (s.answered (encode (.enc x d)) { dout := p ++ d, fail := false, ill := false })) ∧
  (∀ (x : V12) (s : State) (i : Fin 12),
    exec (.enc x (onehot12 i)) s = .next (s.answered (encode (.enc x (onehot12 i)))
      { dout := fwd[i] ++ onehot12 i, fail := false, ill := false }))

/-- 43_syndrome_error_locator.md R54: `SYN` answers `rp ^ p`, with `p` the XOR of the forward rows selected by `rd`; a word with
`rd = 0` answers `rp`, and a word with only data bit `i` set answers `FWD[i]`. -/
def Obligations.SynAnswersParityDiscrepancy : Prop :=
  (∀ (rp rd : V12) (s : State), ∃ p : V12, IsRowXor fwd rd p ∧
    exec (.syn rp rd) s = .next (s.answered (encode (.syn rp rd))
      { dout := (rp ^^^ p).setWidth 24, fail := false, ill := false })) ∧
  (∀ (rp : V12) (s : State),
    exec (.syn rp 0x000) s = .next (s.answered (encode (.syn rp 0x000))
      { dout := rp.setWidth 24, fail := false, ill := false })) ∧
  (∀ (s : State) (i : Fin 12),
    exec (.syn 0x000 (onehot12 i)) s = .next (s.answered (encode (.syn 0x000 (onehot12 i)))
      { dout := fwd[i].setWidth 24, fail := false, ill := false }))

/-- 43_syndrome_error_locator.md R55: the steps of the locator in order, each reached only if no earlier one answered, and in steps 3
and 5 the least matching `i`. Every received word falls under one of the clauses, so `ELOC` always completes. -/
def Obligations.ElocAnswersBySearchOrder : Prop :=
  ∀ (rp rd : V12) (s : State),
    let σ := rp ^^^ gt fwd rd
    let v := gt alt σ
    let answers := fun (r : Response) => exec (.eloc rp rd) s = .next (s.answered (encode (.eloc rp rd)) r)
    (∃ r, answers r) ∧
    (wt12 σ ≤ 3 → answers { dout := σ ++ 0x000#12, fail := false, ill := false }) ∧
    (∀ i : Fin 12, ¬ wt12 σ ≤ 3 → wt12 (σ ^^^ fwd[i]) ≤ 2 → (∀ j : Fin 12, j < i → ¬ wt12 (σ ^^^ fwd[j]) ≤ 2) →
      answers { dout := (σ ^^^ fwd[i]) ++ onehot12 i, fail := false, ill := false }) ∧
    (¬ wt12 σ ≤ 3 → (∀ j : Fin 12, ¬ wt12 (σ ^^^ fwd[j]) ≤ 2) → wt12 v ≤ 3 →
      answers { dout := 0x000#12 ++ v, fail := false, ill := false }) ∧
    (∀ i : Fin 12, ¬ wt12 σ ≤ 3 → (∀ j : Fin 12, ¬ wt12 (σ ^^^ fwd[j]) ≤ 2) → ¬ wt12 v ≤ 3 →
      wt12 (v ^^^ alt[i]) ≤ 2 → (∀ j : Fin 12, j < i → ¬ wt12 (v ^^^ alt[j]) ≤ 2) →
      answers { dout := onehot12 i ++ (v ^^^ alt[i]), fail := false, ill := false }) ∧
    (NoCandidate σ → answers { dout := 0x000000, fail := true, ill := false })

/-- 44_decoder.md R61: `DEC` answers from the response of `ELOC` to the same operand: Uncorrectable if that failed, else the received
data XOR the pattern's low half. Both always complete. -/
def Obligations.DecAnswersFromLocator : Prop :=
  ∀ (rp rd : V12) (s : State), ∃ l : Response,
    exec (.eloc rp rd) s = .next (s.answered (encode (.eloc rp rd)) l) ∧
    (l.fail = true →
      exec (.dec rp rd) s = .next (s.answered (encode (.dec rp rd)) { dout := 0x000000, fail := true, ill := false })) ∧
    (l.fail = false →
      exec (.dec rp rd) s = .next (s.answered (encode (.dec rp rd))
        { dout := (rd ^^^ l.dout.extractLsb' 0 12).setWidth 24, fail := false, ill := false }))

/-- 30_encoding.md R37: the reserved select is answered `ill = 1`, `fail = 0`, `dout = 0`, whatever `din` holds, and nothing else
happens. -/
def Obligations.ReservedSelectAnswersIllegal : Prop :=
  (∀ (x : W24) (s : State),
    exec (.rsv7 x) s = .next (s.answered (encode (.rsv7 x)) { dout := 0x000000, fail := false, ill := true })) ∧
  (∀ (x : W24) (rest : List ReqWord) (ex : List Exchange),
    step { requests := (0b111#3 ++ x) :: rest, exchanges := ex } =
      .next { requests := rest,
              exchanges := ex ++ [{ request := 0b111#3 ++ x, response := { dout := 0x000000, fail := false, ill := true } }] })

/-- 30_encoding.md R38: the upper half of `din` never matters to the four `V12` operations, no bit of it to the reserved code; every
bit of it matters to each of the three `W24` operations. -/
def Obligations.IgnoredOperandBits : Prop :=
  (∀ op ∈ [0#3, 1#3, 2#3, 3#3], ∀ a b v : V12, ∃ r,
    Answers (op ++ (a ++ v)) r ∧ Answers (op ++ (b ++ v)) r) ∧
  (∀ a b : W24, ∃ r, Answers (7#3 ++ a) r ∧ Answers (7#3 ++ b) r) ∧
  (∀ op ∈ [4#3, 5#3, 6#3], ∀ k : Fin 24, ∃ (w : W24) (r r' : Response),
    Answers (op ++ w) r ∧ Answers (op ++ (w ^^^ 1#24 <<< k.val)) r' ∧ r ≠ r')

/-- 30_encoding.md R42: an encoder and a decoder on ports of their own compute the same functions as the `ENC` and `DEC` requests. That
the decoder's port drives the filler 0 beside `fail = 1` is not R42's: it is the model's, DEDUCED from the `dout` of the request's
response (log entry 4). -/
def Obligations.DedicatedPortsComputeTheSame : Prop :=
  (∀ x d : V12, Answers (3#3 ++ (x ++ d)) { dout := encoderPort d, fail := false, ill := false }) ∧
  (∀ w : W24, Answers (6#3 ++ w)
    { dout := (decoderPort w).1.setWidth 24, fail := (decoderPort w).2, ill := false })

-- The two conditions

/-- 60_exceptions.md R64: Uncorrectable is reported by `ELOC` and `DEC` alone, exactly when no condition of the locator holds, with
the filler and without `ill`; this is so for 1771 of the 4096 syndromes. -/
def Obligations.UncorrectableExactCause : Prop :=
  (∀ w : ReqWord, ∃ r, Answers w r ∧
    (r.fail = true ↔ (reqOp w = 5#3 ∨ reqOp w = 6#3) ∧
      NoCandidate (high (reqDin w) ^^^ gt fwd (low (reqDin w)))) ∧
    (r.fail = true → r.ill = false ∧ r.dout = 0x000000)) ∧
  countV12 (fun s => decide (NoCandidate s)) = 1771

/-- 60_exceptions.md R65 and R68: IllegalOp is reported for the reserved select and for no operation, with the filler; a response never
reports both conditions. -/
def Obligations.IllegalOpExactCause : Prop :=
  ∀ w : ReqWord, ∃ r, Answers w r ∧ (r.ill = true ↔ reqOp w = 7#3) ∧
    (r.ill = true → r.fail = false ∧ r.dout = 0x000000)

/-- 60_exceptions.md R66: every request is answered, with no fault and no refusal, and the first five operations never fail. -/
def Obligations.EveryRequestIsAnswered : Prop :=
  (∀ w : ReqWord, ∃ r, Answers w r) ∧
  (∀ op ∈ [0#3, 1#3, 2#3, 3#3, 4#3], ∀ din : W24, ∃ v : W24,
    Answers (op ++ din) { dout := v, fail := false, ill := false })

-- Laws of the weight, the tables and the transforms

/-- 40_hamming_weight.md R44: range and extremes of the weight, its value on one-hot and complemented vectors and on a sum, and how many
vectors have each weight.
The spec marks this `[derived: …]`, an inference of its own. -/
def Obligations.WeightLaws : Prop :=
  (∀ v : V12, wt12 v ≤ 12 ∧ (wt12 v = 0 ↔ v = 0x000) ∧ (wt12 v = 12 ↔ v = 0xFFF)) ∧
  (∀ i : Fin 12, wt12 (onehot12 i) = 1) ∧
  (∀ v : V12, wt12 (v ^^^ 0xFFF) + wt12 v = 12) ∧
  (∀ a b : V12, wt12 (a ^^^ b) + 2 * wt12 (a &&& b) = wt12 a + wt12 b) ∧
  (∀ n ≤ 12, countV12 (fun v => wt12 v == n) = Nat.choose 12 n) ∧
  countV12 (fun v => wt12 v ≤ 3) = 299 ∧ countV12 (fun v => wt12 v ≤ 2) = 79

/-- 10_state.md R20: the alternate matrix is the transpose and the two-sided inverse of the forward one, neither is symmetric or its own
inverse, the rows of each XOR to all ones, and exactly the six listed values are rows of both.
The spec marks this `[derived: …]`, an inference of its own. -/
def Obligations.TablesTransposeAndInverse : Prop :=
  (∀ i j : Fin 12, alt[j][i] = fwd[i][j]) ∧
  (∀ x : V12, gt alt (gt fwd x) = x ∧ gt fwd (gt alt x) = x) ∧
  (fwd[0][1] = false ∧ fwd[1][0] = true ∧ (∃ i j : Fin 12, alt[i][j] ≠ alt[j][i]) ∧
    gt fwd (gt fwd 0x001) = 0x800 ∧ gt alt (gt alt 0x001) = 0x002) ∧
  (indices12.foldl (fun acc i => acc ^^^ fwd[i]) 0 = 0xFFF#12 ∧ indices12.foldl (fun acc i => acc ^^^ alt[i]) 0 = 0xFFF#12) ∧
  (∀ i j : Fin 12, fwd[i] = alt[j] ↔
    (i, j, fwd[i]) ∈ [((0 : Fin 12), (11 : Fin 12), 0xC75#12), (1, 0, 0x49F#12), (3, 2, 0x6E3#12), (7, 6, 0x1ED#12),
      (8, 7, 0x3DA#12), (9, 8, 0x7B4#12)])

/-- 41_generator_transform.md R48: both transforms are linear over GF(2), and so determined by their rows. The source states this of the forward transform; for the alternate one, and for the
consequences, the spec marks it `[derived: …]`, an inference of its own. -/
def Obligations.TransformsAreLinear : Prop :=
  ∀ M ∈ [fwd, alt],
    gt M 0x000 = 0x000 ∧ (∀ a b : V12, gt M (a ^^^ b) = gt M a ^^^ gt M b) ∧
    (∀ (x : V12) (i : Fin 12), gt M (x ^^^ onehot12 i) = gt M x ^^^ M[i]) ∧
    (∀ x : V12, gt M x = ((indices12.filter fun i => x[i]).map fun i => gt M (onehot12 i)).foldl (· ^^^ ·) 0x000)

/-- 41_generator_transform.md R49: the transforms undo each other, are bijections, vanish only at 0; a received word with data-bit
errors only has the syndrome `GTF(e_d)`, and `GTA` of it is `e_d`.
The spec marks this `[derived: …]`, an inference of its own. -/
def Obligations.TransformsUndoEachOther : Prop :=
  (∀ x : V12, gt alt (gt fwd x) = x ∧ gt fwd (gt alt x) = x) ∧
  Function.Bijective (gt fwd) ∧ Function.Bijective (gt alt) ∧
  (∀ x : V12, (gt fwd x = 0x000 ↔ x = 0x000) ∧ (gt alt x = 0x000 ↔ x = 0x000)) ∧
  (∀ (c : W24) (ed : V12), IsCodeword c →
    syndrome (c ^^^ ed.setWidth 24) = gt fwd ed ∧ gt alt (syndrome (c ^^^ ed.setWidth 24)) = ed)

/-- 41_generator_transform.md R50: each output bit is the parity of the input masked by a row of the other table, the XOR of exactly
seven input bits.
The spec marks this `[derived: …]`, an inference of its own. -/
def Obligations.TransformColumnForm : Prop :=
  (∀ (x : V12) (j : Fin 12),
    (gt fwd x)[j] = decide (wt12 (x &&& alt[j]) % 2 = 1) ∧ (gt alt x)[j] = decide (wt12 (x &&& fwd[j]) % 2 = 1)) ∧
  (∀ j : Fin 12, wt12 alt[j] = 7 ∧ wt12 fwd[j] = 7) ∧
  (∀ x : V12, (gt fwd x)[0] = (x[0] ^^ x[1] ^^ x[2] ^^ x[3] ^^ x[4] ^^ x[7] ^^ x[10]))

-- Laws of the code

/-- 42_encoder.md R52: the two fixed points the source states, as responses of the core, and the reason for the second. -/
def Obligations.EncoderFixedPoints : Prop :=
  Answers 0x3000000#27 { dout := 0x000000, fail := false, ill := false } ∧
  Answers 0x3000FFF#27 { dout := 0xFFFFFF, fail := false, ill := false } ∧
  fwd[0] ^^^ fwd[1] ^^^ fwd[2] ^^^ fwd[3] ^^^ fwd[4] ^^^ fwd[5] ^^^ fwd[6] ^^^ fwd[7] ^^^ fwd[8] ^^^ fwd[9] ^^^ fwd[10]
    ^^^ fwd[11] = 0xFFF#12

/-- 42_encoder.md R53: the set of codewords is linear, systematic and closed under complement, is the set of words with syndrome 0, has
minimum distance 8 and the weight distribution 1, 759, 2576, 759, 1. The spec marks this `[derived: …]`, an inference
of its own; the minimum distance is also the source's sentence. -/
def Obligations.CodewordSetLaws : Prop :=
  (∀ a b : V12, codeword (a ^^^ b) = codeword a ^^^ codeword b) ∧
  Function.Injective codeword ∧
  (∀ w : W24, ((∃ d, codeword d = w) ↔ IsCodeword w) ∧ (IsCodeword w ↔ syndrome w = 0x000)) ∧
  (minDistance = 8 ∧ ∀ a b : V12, a ≠ b → minDistance ≤ distance (codeword a) (codeword b)) ∧
  (∀ n : Nat, countV12 (fun d => wt24 (codeword d) == n) =
    if n = 0 ∨ n = 24 then 1 else if n = 8 ∨ n = 16 then 759 else if n = 12 then 2576 else 0) ∧
  (∀ d : V12, codeword (d ^^^ 0xFFF) = codeword d ^^^ 0xFFFFFF) ∧
  (∀ i : Fin 12, wt12 fwd[i] = 7 ∧ wt24 (codeword (onehot12 i)) = 8)

/-- 43_syndrome_error_locator.md R56: the syndrome is linear, is zero exactly for valid codewords, depends on the error pattern only,
and takes every value on exactly 4096 words.
The spec marks this `[derived: …]`, an inference of its own. -/
def Obligations.SyndromeLaws : Prop :=
  (∀ a b : W24, syndrome (a ^^^ b) = syndrome a ^^^ syndrome b) ∧ syndrome 0x000000 = 0x000 ∧
  (∀ w : W24, syndrome w = 0x000 ↔ IsCodeword w) ∧
  (∀ (c : W24) (ep ed : V12), IsCodeword c →
    syndrome (c ^^^ (ep ++ ed)) = syndrome (ep ++ ed) ∧
    syndrome (c ^^^ (ep ++ ed)) = ep ^^^ gt fwd ed ∧
    gt alt (syndrome (c ^^^ (ep ++ ed))) = gt alt ep ^^^ ed) ∧
  (∀ s : V12, syndrome (s ++ 0x000#12) = s ∧ Nat.card { w : W24 // syndrome w = s } = 4096)

-- Laws of the locator

/-- 43_syndrome_error_locator.md R57 items 2 and 3: the patterns of the conditions that hold for `s` are exactly the words of weight at
most 3 with the syndrome `s`.
The spec marks this `[derived: …]`, an inference of its own. -/
def Obligations.LocatorConditionsAreExact : Prop :=
  ∀ (s : V12) (e : W24), e ∈ matchingPatterns s ↔ syndrome e = s ∧ wt24 e ≤ 3

/-- 43_syndrome_error_locator.md R57 item 4: at most one word of weight at most 3 has a given syndrome; so all conditions that hold
return the same pattern, and it is the locator's.
The spec marks this `[derived: …]`, an inference of its own. -/
def Obligations.LocatorPatternIsUnique : Prop :=
  (∀ e e' : W24, wt24 e ≤ 3 → wt24 e' ≤ 3 → syndrome e = syndrome e' → e = e') ∧
  (∀ (s : V12) (e : W24), e ∈ matchingPatterns s → locate s = some e)

/-- 43_syndrome_error_locator.md R59: evaluating all 26 conditions at once and selecting by priority gives the response of the
sequential search, and so does selecting by the reverse priority. That any priority gives the same is the spec's own
inference (R57 item 4). -/
def Obligations.ParallelLocatorIsSequential : Prop :=
  (∀ s : V12, (locatorCandidates s).length = 26 ∧ locateParallel s = locate s) ∧
  (∀ s : V12, (matchingPatterns s).getLast? = locate s)

/-- 43_syndrome_error_locator.md R57 items 4 and 5: how many conditions hold, and which step answers first, over the 4096 syndromes;
how many of the 2^24 received words get a pattern.
The spec marks this `[derived: …]`, an inference of its own. -/
def Obligations.LocatorCounts : Prop :=
  (countV12 (fun s => (matchingPatterns s).length = 0) = 1771 ∧
   countV12 (fun s => (matchingPatterns s).length = 1) = 2156 ∧
   countV12 (fun s => (matchingPatterns s).length = 2) = 169) ∧
  (countV12 (fun s => wt12 s ≤ 3) = 299 ∧
   countV12 (fun s => 3 < wt12 s ∧ (searchDataBit s).isSome) = 948 ∧
   countV12 (fun s => 3 < wt12 s ∧ searchDataBit s = none ∧ wt12 (gt alt s) ≤ 3) = 286 ∧
   countV12 (fun s => 3 < wt12 s ∧ searchDataBit s = none ∧ 3 < wt12 (gt alt s) ∧
     (searchParityBit (gt alt s)).isSome) = 792 ∧
   countV12 (fun s => locate s = none) = 1771) ∧
  Nat.card { w : W24 // (errorPattern w).isSome } = 9523200 ∧ Nat.card { w : W24 // errorPattern w = none } = 7254016

/-- 43_syndrome_error_locator.md R57 item 1: two received words with the same syndrome get the same response of `ELOC`.
The spec marks this `[derived: …]`, an inference of its own. -/
def Obligations.ElocDependsOnSyndromeOnly : Prop :=
  ∀ w w' : W24, syndrome w = syndrome w' → ∃ r, Answers (5#3 ++ w) r ∧ Answers (5#3 ++ w') r

/-- 43_syndrome_error_locator.md R58 item 1: with at most three errors on any valid codeword, `ELOC` answers exactly the error
pattern.
The spec marks this item `[derived: …]`, an inference of its own (from R57 items 3 and 4). -/
def Obligations.ElocLocatesUpToThreeErrors : Prop :=
  ∀ c e : W24, IsCodeword c → wt24 e ≤ 3 →
    Answers (5#3 ++ (c ^^^ e)) { dout := e, fail := false, ill := false }

/-- 43_syndrome_error_locator.md R58 item 2 and 44_decoder.md R62 item 4: with exactly four errors, `ELOC` and `DEC` both report
Uncorrectable.
The spec marks this `[derived: …]`, an inference of its own. -/
def Obligations.FourErrorsAreUncorrectable : Prop :=
  ∀ c e : W24, IsCodeword c → wt24 e = 4 →
    Answers (5#3 ++ (c ^^^ e)) { dout := 0x000000, fail := true, ill := false } ∧
    Answers (6#3 ++ (c ^^^ e)) { dout := 0x000000, fail := true, ill := false }

/-- 43_syndrome_error_locator.md R58 item 3: with five or more errors, however many, `ELOC` either reports Uncorrectable or succeeds with
a wrong pattern, of weight at most 3, that leads to another valid codeword. With five or seven it always does the second; with six
or eight it does the one for some patterns and the other for others.
The spec marks this `[derived: …]`, an inference of its own. -/
def Obligations.FiveOrMoreErrorsMislead : Prop :=
  (∀ c e : W24, IsCodeword c → 5 ≤ wt24 e →
    Answers (5#3 ++ (c ^^^ e)) { dout := 0x000000, fail := true, ill := false } ∨
    ∃ e' : W24, Answers (5#3 ++ (c ^^^ e)) { dout := e', fail := false, ill := false } ∧
      e' ≠ e ∧ wt24 e' ≤ 3 ∧ IsCodeword (c ^^^ e ^^^ e') ∧ c ^^^ e ^^^ e' ≠ c) ∧
  (∀ c e : W24, IsCodeword c → wt24 e = 5 ∨ wt24 e = 7 → ∃ e' : W24,
    Answers (5#3 ++ (c ^^^ e)) { dout := e', fail := false, ill := false } ∧
    e' ≠ e ∧ wt24 e' ≤ 3 ∧ IsCodeword (c ^^^ e ^^^ e') ∧ c ^^^ e ^^^ e' ≠ c) ∧
  (∀ c : W24, IsCodeword c → ∀ n ∈ [6, 8],
    (∃ e : W24, wt24 e = n ∧ Answers (5#3 ++ (c ^^^ e)) { dout := 0x000000, fail := true, ill := false }) ∧
    (∃ e e' : W24, wt24 e = n ∧ e' ≠ e ∧ Answers (5#3 ++ (c ^^^ e)) { dout := e', fail := false, ill := false }))

/-- 43_syndrome_error_locator.md R58 items 1, 2 and 4: `ELOC` reports Uncorrectable exactly for the words at distance 4 or more from
every valid codeword. It rests on items the spec marks `[derived: …]`, inferences of its own. -/
def Obligations.UncorrectableIffFarFromTheCode : Prop :=
  ∀ w : W24, Answers (5#3 ++ w) { dout := 0x000000, fail := true, ill := false } ↔
    ∀ c : W24, IsCodeword c → 4 ≤ distance w c

-- Laws of the decoder

/-- 44_decoder.md R62 items 1 and 3: what `ENC` answers for a data word, with any at most three bits flipped, `DEC` answers with that
data word and success. -/
def Obligations.DecCorrectsUpToThreeErrors : Prop :=
  ∀ (x d : V12) (e : W24), wt24 e ≤ 3 → ∃ cw : W24,
    Answers (3#3 ++ (x ++ d)) { dout := cw, fail := false, ill := false } ∧
    Answers (6#3 ++ (cw ^^^ e)) { dout := d.setWidth 24, fail := false, ill := false }

/-- 44_decoder.md R62 item 2: a successful `DEC` answers the data word of the one valid codeword within distance 3 of the operand, which is
the operand XOR the locator's pattern.
The spec marks this `[derived: …]`, an inference of its own. -/
def Obligations.DecAnswersNearestCodeword : Prop :=
  ∀ (w : W24) (m : V12), Answers (6#3 ++ w) { dout := m.setWidth 24, fail := false, ill := false } →
    (∃ e : W24, Answers (5#3 ++ w) { dout := e, fail := false, ill := false } ∧ codeword m = w ^^^ e ∧ wt24 e ≤ 3) ∧
    (∀ c : W24, IsCodeword c → distance w c ≤ 3 → c = codeword m)

/-- 44_decoder.md R62 item 5: adding a valid codeword to the operand of `DEC` adds its data word to a successful result and leaves a
failure a failure.
The spec marks this `[derived: …]`, an inference of its own. -/
def Obligations.DecCommutesWithCodewords : Prop :=
  ∀ w c : W24, IsCodeword c →
    (∀ m : V12, Answers (6#3 ++ w) { dout := m.setWidth 24, fail := false, ill := false } →
      Answers (6#3 ++ (w ^^^ c)) { dout := (m ^^^ c.extractLsb' 0 12).setWidth 24, fail := false, ill := false }) ∧
    (Answers (6#3 ++ w) { dout := 0x000000, fail := true, ill := false } ↔
      Answers (6#3 ++ (w ^^^ c)) { dout := 0x000000, fail := true, ill := false })

-- The run

/-- 20_memory.md R25 and 60_exceptions.md R69, the frame of every operation: executing any of them completes, leaves the pending requests and
every earlier exchange as they are, and adds exactly the exchange of this request. -/
def Obligations.ExecAddsOneExchange : Prop :=
  ∀ (i : Instr) (s : State), (∃ t, exec i s = .next t) ∧
    ∀ t, exec i s = .next t →
      t.requests = s.requests ∧ ∃ r, t.exchanges = s.exchanges ++ [{ request := encode i, response := r }]

/-- 10_state.md R16 and 00_scope.md R11: each request word has one response, the same in every state. -/
def Obligations.ResponseDependsOnRequestAlone : Prop :=
  (∀ w : ReqWord, ∃ r, Answers w r ∧ freshResponse w = some r) ∧
  (∀ (s s' t t' : State) (w : ReqWord), s.requests.head? = some w → s'.requests.head? = some w →
    step s = .next t → step s' = .next t' →
    t.exchanges.getLast? = t'.exchanges.getLast? ∧ t.exchanges.getLast?.map (·.request) = some w)

/-- 70_reset_and_hazards.md R76: the first request after reset may be any request and is answered as in any other state. That reset holds
no request and no exchange is the model's choice (log entry 1). -/
def Obligations.ResetAnswersAnyFirstRequest : Prop :=
  State.reset.requests = [] ∧ State.reset.exchanges = [] ∧
  ∀ w : ReqWord, ∃ r, Answers w r ∧
    step (State.reset.present w) = .next { requests := [], exchanges := [{ request := w, response := r }] }

/-- The model's choice, log entry 2: a step is refused exactly when the host presents no request. It rests on 00_scope.md R11 and
70_reset_and_hazards.md R81: a step is the evaluation of one request, and a run ends when none is presented. -/
def Obligations.StepRefusedOnlyWithoutRequest : Prop :=
  ∀ s : State, (step s = .refused .noRequest ↔ s.requests = []) ∧ ((∃ t, step s = .next t) ↔ s.requests ≠ [])

/-- The record of a run holds nothing unsound at reset (the record is empty, log entry 1). -/
def Obligations.InvariantHoldsAtReset : Prop := State.reset.Inv

/-- Every step keeps every recorded exchange sound: the response formats, the conditions, and the promises about codewords, error
patterns and corrected words (30_encoding.md R33, R36; 42_encoder.md R53; 43_syndrome_error_locator.md R56 to R58; 44_decoder.md R62;
60_exceptions.md R64, R65, R68). The clauses from R53, R56 to R58 and R62 are inferences the spec marks as
its own. -/
def Obligations.InvariantKeptByEveryStep : Prop :=
  ∀ s s' : State, s.Inv → step s = .next s' → s'.Inv

/-- 70_reset_and_hazards.md R81 and 00_scope.md R11: a run over any finite list of requests answers each of them in order, in one step each,
with the response a core that has answered nothing gives. -/
def Obligations.RunAnswersEveryRequestInOrder : Prop :=
  ∀ (ws : List ReqWord) (ex : List Exchange), ∃ out : List Exchange,
    core.run ws.length { requests := ws, exchanges := ex } = .next { requests := [], exchanges := ex ++ out } ∧
    out.map (·.request) = ws ∧ ∀ x ∈ out, freshResponse x.request = some x.response

/-- 20_memory.md R27 and 60_exceptions.md R74: whatever the order in which the instances of a system take their steps, each ends where it would
alone with the same number of steps. That simultaneous evaluations are taken one after another, by a schedule, is the model's choice
(log entry 6, DEDUCED). -/
def Obligations.InstancesAreIndependent : Prop :=
  ∀ (schedule : List Nat) (sys out : System), sys.runSchedule schedule = .next out →
    out.length = sys.length ∧
    ∀ (k : Nat) (s : State), sys[k]? = some s → ∃ t,
      core.run (schedule.count k) s = .next t ∧ out[k]? = some t

/-- 30_encoding.md R40, one line of a script. A literal below 2^24 is its zero-extension; a name is the `dout` of the successful
response recorded for it; `^` is the XOR of the terms' values; the line is then one step of the core on the request `{op, operand}`,
and the response is recorded under the line's name. A line that uses a literal of 2^24 or more, or a name with no response or with
failed or illegal ones only, has no meaning. Where several lines defined a name, that it stands for the response of one of them is the
model's choice (log entry 9), and the statement does not say which. -/
def Obligations.ScriptLineIsOneRequest : Prop :=
  (∀ (env : Records) (v : Nat), v < 2 ^ 24 → ∃ x : W24, evalTerm env (.literal v) = some x ∧ x.toNat = v) ∧
  (∀ (env : Records) (n : Nat) (r : Response), (n, r) ∈ env → (∀ x ∈ env, x.1 = n → x.2 = r) →
    r.fail = false → r.ill = false → evalTerm env (.name n) = some r.dout) ∧
  (∀ (env : Records) (n : Nat), (∃ x ∈ env, x.1 = n) → (∀ x ∈ env, x.1 = n → x.2.fail = false ∧ x.2.ill = false) →
    ∃ x ∈ env, x.1 = n ∧ evalTerm env (.name n) = some x.2.dout) ∧
  (∀ (l : Line) (env : Records) (vs : List W24), (l.first :: l.others).map (evalTerm env) = vs.map some →
    evalOperand env l = some (vs.foldl (· ^^^ ·) 0)) ∧
  (∀ (l : Line) (env : Records) (s : State) (v : W24), evalOperand env l = some v → ∃ r,
    Answers (l.mnemonic.op ++ v) r ∧
    runLine l env s = some (recordResponse l.target r env,
      { requests := s.requests, exchanges := s.exchanges ++ [{ request := l.mnemonic.op ++ v, response := r }] }) ∧
    (l.target = none → recordResponse l.target r env = env) ∧
    (∀ n, l.target = some n → recordResponse l.target r env = (n, r) :: env)) ∧
  (∀ (l : Line) (env : Records) (s : State) (v : Nat), Term.literal v ∈ l.first :: l.others → 2 ^ 24 ≤ v →
    runLine l env s = none) ∧
  (∀ (l : Line) (env : Records) (s : State) (n : Nat), Term.name n ∈ l.first :: l.others →
    (∀ x ∈ env, x.1 = n → x.2.fail = true ∨ x.2.ill = true) → runLine l env s = none)

/-- 30_encoding.md R40, a whole script. One that uses a name no earlier line defined has no meaning. One that is well formed, and whose
lines that define a used name have one of the five mnemonics that never fail (60_exceptions.md R66), has a meaning, whatever names
it defines again: one exchange for each line, in order, with the line's `op`, and one record for each line with a name. That a
script may define a name twice is R40's; that a use after that stands for one of those lines is log entry 9. -/
def Obligations.WellFormedScriptHasMeaning : Prop :=
  (∀ (before after : Script) (l : Line) (s : State) (n : Nat), Term.name n ∈ l.first :: l.others →
    (∀ k ∈ before, k.target ≠ some n) → runScript (before ++ l :: after) s = none) ∧
  (∀ (p : Script) (s : State), scriptWellFormed [] p = true →
    (∀ l ∈ p, ∀ n, l.target = some n → (∃ k ∈ p, Term.name n ∈ k.first :: k.others) →
      l.mnemonic ∈ [Mnemonic.wt12, Mnemonic.gtf, Mnemonic.gta, Mnemonic.enc, Mnemonic.syn]) →
    ∃ (env : Records) (t : State) (out : List Exchange), runScript p s = some (env, t) ∧
      t.requests = s.requests ∧ t.exchanges = s.exchanges ++ out ∧
      out.map (fun x => reqOp x.request) = p.map (fun l => l.mnemonic.op) ∧
      env.map (·.1) = (p.filterMap (·.target)).reverse)
end

