-- ==== Sys2Proof/Laws/Bits.lean ====
section
/-! SUPPORT. What the bit-field operators do to each other (00_scope.md R8), said once; later proofs cite these and leave the
operators folded. -/

namespace Sys2Proof.Machine

open Sys2Proof

theorem low_getElem (w : W24) (j : Nat) (h : j < 12) : (low w)[j] = w.getLsbD j := by
  simp [low, BitVec.getElem_extractLsb']

theorem high_getElem (w : W24) (j : Nat) (h : j < 12) : (high w)[j] = w.getLsbD (12 + j) := by
  simp [high, BitVec.getElem_extractLsb']

theorem cat_getLsbD (a b : V12) (j : Nat) :
    (cat a b).getLsbD j = if j < 12 then b.getLsbD j else a.getLsbD (j - 12) := by
  simp only [cat, BitVec.getLsbD_append]

@[simp] theorem low_cat (a b : V12) : low (cat a b) = b := by
  ext j hj
  simp [low_getElem, cat_getLsbD, hj]

@[simp] theorem high_cat (a b : V12) : high (cat a b) = a := by
  ext j hj
  rw [high_getElem, cat_getLsbD, if_neg (by omega), Nat.add_sub_cancel_left, BitVec.getLsbD_eq_getElem]

@[simp] theorem cat_high_low (w : W24) : cat (high w) (low w) = w := by
  apply BitVec.eq_of_getLsbD_eq
  intro j hj
  rw [cat_getLsbD]
  split
  · rename_i h
    rw [BitVec.getLsbD_eq_getElem h, low_getElem]
  · rename_i h
    rw [BitVec.getLsbD_eq_getElem (by omega), high_getElem, Nat.add_sub_cancel' (by omega)]

/-- A 24-bit word is its two halves. -/
theorem word_ext {a b : W24} (hh : high a = high b) (hl : low a = low b) : a = b := by
  rw [← cat_high_low a, ← cat_high_low b, hh, hl]

@[simp] theorem low_xor (a b : W24) : low (a ^^^ b) = low a ^^^ low b := by
  ext j hj
  simp [low_getElem]

@[simp] theorem high_xor (a b : W24) : high (a ^^^ b) = high a ^^^ high b := by
  ext j hj
  simp [high_getElem]

theorem zext24_eq_cat (v : V12) : zext24 v = cat 0#12 v := by
  apply BitVec.eq_of_getLsbD_eq
  intro j hj
  rw [cat_getLsbD]
  split
  · simp [zext24, hj]
  · rename_i h
    simp [zext24, BitVec.getLsbD_of_ge v j (by omega)]

@[simp] theorem low_zext24 (v : V12) : low (zext24 v) = v := by rw [zext24_eq_cat, low_cat]

@[simp] theorem high_zext24 (v : V12) : high (zext24 v) = 0#12 := by rw [zext24_eq_cat, high_cat]

/-- A bit of a one-hot vector. -/
theorem onehot12_getElem (i : Fin 12) (j : Nat) (h : j < 12) : (onehot12 i)[j] = decide (j = i.val) := by
  simp only [onehot12, BitVec.getElem_shiftLeft]
  by_cases hj : j < i.val
  · simp [hj]; omega
  · by_cases hi : j = i.val
    · simp [hi]
    · simp [hj, hi]
      omega

theorem reqOp_reqWord (op : OpSel) (din : W24) : reqOp (reqWord op din) = op := by
  ext j hj
  rw [reqOp, BitVec.getElem_extractLsb', reqWord, BitVec.getLsbD_append, if_neg (by omega), Nat.add_sub_cancel_left,
    BitVec.getLsbD_eq_getElem]

theorem reqDin_reqWord (op : OpSel) (din : W24) : reqDin (reqWord op din) = din := by
  ext j hj
  rw [reqDin, BitVec.getElem_extractLsb', reqWord, BitVec.getLsbD_append, Nat.zero_add, if_pos hj,
    BitVec.getLsbD_eq_getElem]

theorem reqWord_fields (w : ReqWord) : reqWord (reqOp w) (reqDin w) = w := by
  apply BitVec.eq_of_getLsbD_eq
  intro j hj
  rw [reqWord, BitVec.getLsbD_append]
  split
  · rename_i h
    rw [BitVec.getLsbD_eq_getElem h, reqDin, BitVec.getElem_extractLsb', Nat.zero_add]
  · rename_i h
    rw [BitVec.getLsbD_eq_getElem (by omega), reqOp, BitVec.getElem_extractLsb', Nat.add_sub_cancel' (by omega)]

end Sys2Proof.Machine
end

