-- ==== Sys2Proof/Laws/Enumerate.lean ====
section
/-! SUPPORT. The weight and the two transforms as arithmetic on natural numbers, which Lean's kernel evaluates directly, and the step
from a check over the 4096 numbers to a claim about all 12-bit vectors. With these a fact about the tables is one evaluation. -/

namespace Sys2Proof.Machine

open Sys2Proof

/-- `wt12` on numbers. -/
def weightNat (n : Nat) : Nat :=
  n % 2 + n / 2 % 2 + n / 4 % 2 + n / 8 % 2 + n / 16 % 2 + n / 32 % 2 + n / 64 % 2 + n / 128 % 2 + n / 256 % 2 +
  n / 512 % 2 + n / 1024 % 2 + n / 2048 % 2

/-- `GT(FWD, ·)` on numbers. -/
def forwardNat (n : Nat) : Nat :=
  (n % 2 * 0xC75) ^^^ (n / 2 % 2 * 0x49F) ^^^ (n / 4 % 2 * 0xD4B) ^^^ (n / 8 % 2 * 0x6E3) ^^^ (n / 16 % 2 * 0x9B3) ^^^
  (n / 32 % 2 * 0xB66) ^^^ (n / 64 % 2 * 0xECC) ^^^ (n / 128 % 2 * 0x1ED) ^^^ (n / 256 % 2 * 0x3DA) ^^^
  (n / 512 % 2 * 0x7B4) ^^^ (n / 1024 % 2 * 0xB1D) ^^^ (n / 2048 % 2 * 0xE3A)

/-- `GT(ALT, ·)` on numbers. -/
def alternateNat (n : Nat) : Nat :=
  (n % 2 * 0x49F) ^^^ (n / 2 % 2 * 0x93E) ^^^ (n / 4 % 2 * 0x6E3) ^^^ (n / 8 % 2 * 0xDC6) ^^^ (n / 16 % 2 * 0xF13) ^^^
  (n / 32 % 2 * 0xAB9) ^^^ (n / 64 % 2 * 0x1ED) ^^^ (n / 128 % 2 * 0x3DA) ^^^ (n / 256 % 2 * 0x7B4) ^^^
  (n / 512 % 2 * 0xF68) ^^^ (n / 1024 % 2 * 0xA4F) ^^^ (n / 2048 % 2 * 0xC75)

theorem bit_toNat (v : V12) (i : Nat) (h : i < 12) : v[i].toNat = v.toNat / 2 ^ i % 2 := by
  rw [← BitVec.getLsbD_eq_getElem h, ← BitVec.testBit_toNat, Nat.toNat_testBit]

theorem wt12_eq_weightNat (v : V12) : wt12 v = weightNat v.toNat := by
  simp only [wt12, weightNat, bit_toNat, Nat.pow_zero, Nat.div_one]
  rfl

/-- One round of the transform's loop, on numbers. -/
theorem xorIf_toNat (v acc row : V12) (i : Nat) (h : i < 12) :
    (if v[i] then acc ^^^ row else acc).toNat = acc.toNat ^^^ v.toNat / 2 ^ i % 2 * row.toNat := by
  rw [← bit_toNat v i h]
  cases v[i] <;> simp

theorem gt_fwd_toNat (v : V12) : (gt fwd v).toNat = forwardNat v.toNat := by
  simp only [gt, indices12, List.foldl_cons, List.foldl_nil, Fin.getElem_fin, xorIf_toNat, forwardNat]
  simp [fwd]

theorem gt_alt_toNat (v : V12) : (gt alt v).toNat = alternateNat v.toNat := by
  simp only [gt, indices12, List.foldl_cons, List.foldl_nil, Fin.getElem_fin, xorIf_toNat, alternateNat]
  simp [alt]

/-- The check of a property of all numbers below a bound. -/
def allBelow (p : Nat → Bool) : Nat → Bool
  | 0 => true
  | k + 1 => p k && allBelow p k

theorem allBelow_spec {p : Nat → Bool} {n : Nat} (h : allBelow p n = true) : ∀ k, k < n → p k = true := by
  induction n with
  | zero => intro k hk; omega
  | succ n ih =>
    simp only [allBelow, Bool.and_eq_true] at h
    intro k hk
    rcases Nat.lt_succ_iff_lt_or_eq.1 hk with hk | rfl
    · exact ih h.2 k hk
    · exact h.1

/-- A check over the 4096 numbers is a claim about every 12-bit vector. -/
theorem forall_v12_of_allBelow {p : Nat → Bool} (h : allBelow p 4096 = true) (v : V12) : p v.toNat = true :=
  allBelow_spec h v.toNat v.isLt

end Sys2Proof.Machine
end

