-- ==== Sys2Proof/Laws/State.lean ====
section
/-! SUPPORT. One lemma per field of `State` and per update of it, and per field of the three forms of a response, so that no later
proof unfolds a record update. -/

namespace Sys2Proof.Machine

open Sys2Proof

@[simp] theorem State.reset_requests : State.reset.requests = [] := rfl
@[simp] theorem State.reset_exchanges : State.reset.exchanges = [] := rfl

@[simp] theorem State.answered_requests (s : State) (q : ReqWord) (r : Response) :
    (s.answered q r).requests = s.requests := rfl
@[simp] theorem State.answered_exchanges (s : State) (q : ReqWord) (r : Response) :
    (s.answered q r).exchanges = s.exchanges ++ [{ request := q, response := r }] := rfl

@[simp] theorem State.present_requests (s : State) (w : ReqWord) : (s.present w).requests = w :: s.requests := rfl
@[simp] theorem State.present_exchanges (s : State) (w : ReqWord) : (s.present w).exchanges = s.exchanges := rfl

@[simp] theorem State.withFetchWord_requests (s : State) (nbits w : Nat) :
    (s.withFetchWord nbits w).requests = tableWord nbits w :: s.requests := rfl
@[simp] theorem State.withFetchWord_exchanges (s : State) (nbits w : Nat) :
    (s.withFetchWord nbits w).exchanges = s.exchanges := rfl

@[simp] theorem rspOk_dout (v : W24) : (rspOk v).dout = v := rfl
@[simp] theorem rspOk_fail (v : W24) : (rspOk v).fail = false := rfl
@[simp] theorem rspOk_ill (v : W24) : (rspOk v).ill = false := rfl
@[simp] theorem rspUncorrectable_dout : rspUncorrectable.dout = 0#24 := rfl
@[simp] theorem rspUncorrectable_fail : rspUncorrectable.fail = true := rfl
@[simp] theorem rspUncorrectable_ill : rspUncorrectable.ill = false := rfl
@[simp] theorem rspIllegal_dout : rspIllegal.dout = 0#24 := rfl
@[simp] theorem rspIllegal_fail : rspIllegal.fail = false := rfl
@[simp] theorem rspIllegal_ill : rspIllegal.ill = true := rfl

@[simp] theorem rspOption_some (v : W24) : rspOption (some v) = rspOk v := rfl
@[simp] theorem rspOption_none : rspOption none = rspUncorrectable := rfl

/-- The only way to fail is to have no value. -/
@[simp] theorem rspOption_fail (o : Option W24) : (rspOption o).fail = o.isNone := by cases o <;> rfl
@[simp] theorem rspOption_ill (o : Option W24) : (rspOption o).ill = false := by cases o <;> rfl

end Sys2Proof.Machine
end

