-- ==== Sys2Proof/Laws/Ops.lean ====
section
/-! SUPPORT. What each shared operation can do, said once. -/

namespace Sys2Proof.Machine

open Sys2Proof

/-- `respond` has one outcome. -/
theorem respond_next_iff {q : ReqWord} {r : Response} {s t : State} :
    respond q r s = .next t ↔ t = s.answered q r := by
  constructor
  · intro h
    injection h with h
    exact h.symm
  · rintro rfl
    rfl

theorem respondOk_eq (q : ReqWord) (v : W24) (s : State) : respondOk q v s = .next (s.answered q (rspOk v)) := rfl

theorem respondIllegal_eq (q : ReqWord) (s : State) : respondIllegal q s = .next (s.answered q rspIllegal) := rfl

theorem respondOption_eq (q : ReqWord) (o : Option W24) (s : State) :
    respondOption q o s = .next (s.answered q (rspOption o)) := rfl

/-- Taking a request: the next one leaves the list, or there is none. -/
theorem takeRequest_cases (s : State) :
    (s.requests = [] ∧ s.takeRequest = none) ∨
    ∃ w rest, s.requests = w :: rest ∧ s.takeRequest = some (w, { s with requests := rest }) := by
  cases s with
  | mk requests exchanges =>
    cases requests with
    | nil => exact .inl ⟨rfl, rfl⟩
    | cons w rest => exact .inr ⟨w, rest, rfl, rfl⟩

theorem takeRequest_present (s : State) (w : ReqWord) : (s.present w).takeRequest = some (w, s) := rfl

end Sys2Proof.Machine
end

