-- ==== Sys2Proof/Laws/Exec.lean ====
section
/-! SUPPORT. Every meaning is one `respond`: its response, as a function of the operation, is named here, and the two lemmas about it
are all a later proof needs of the dispatch. -/

namespace Sys2Proof.Machine

open Sys2Proof

/-- The response of each operation. -/
def responseOf : Instr → Response
  | .wt12 _ v => rspOk (weightOut (wt12 v))
  | .gtf _ v => rspOk (zext24 (gt fwd v))
  | .gta _ v => rspOk (zext24 (gt alt v))
  | .enc _ d => rspOk (codeword d)
  | .syn rp rd => rspOk (zext24 (syndrome (cat rp rd)))
  | .eloc rp rd => rspOption (errorPattern (cat rp rd))
  | .dec rp rd => rspOption ((correctedData (cat rp rd)).map zext24)
  | .rsv7 _ => rspIllegal

/-- Executing an operation answers its response and does nothing else. -/
theorem exec_eq_answered (i : Instr) (s : State) : exec i s = .next (s.answered (encode i) (responseOf i)) := by
  cases i <;> rfl

/-- A step with a request pending. -/
theorem step_cons (w : ReqWord) (rest : List ReqWord) (ex : List Exchange) :
    step { requests := w :: rest, exchanges := ex } =
      .next { requests := rest, exchanges := ex ++ [{ request := encode (decode w), response := responseOf (decode w) }] } := by
  show exec (decode w) { requests := rest, exchanges := ex } = _
  rw [exec_eq_answered]
  rfl

/-- A step with none. -/
theorem step_nil (ex : List Exchange) : step { requests := [], exchanges := ex } = .refused .noRequest := rfl

end Sys2Proof.Machine
end

