-- ==== Sys2Proof/Laws/PerInstr.lean ====
section
/-! SUPPORT. The family `TableRow`, one lemma per constructor: the request word of an operation has its row's match word under the
mask every row has (30_encoding.md R35, spec/opcode_table.json). -/

namespace Sys2Proof.Laws.TableRow

open Sys2Proof Sys2Proof.Machine

/-- Masked, the request word is the row's match word. -/
def Statement (i : Instr) : Prop := encode i &&& rowMask = rowMatch i.op

/-- For any select code and operand: the mask keeps the select code and clears the operand. -/
theorem masked_reqWord (op : OpSel) (din : W24) : reqWord op din &&& rowMask = rowMatch op := by
  have hm : rowMask = reqWord 7#3 0#24 := by decide
  rw [hm]
  apply BitVec.eq_of_getLsbD_eq
  intro j hj
  rw [BitVec.getLsbD_and, rowMatch]
  simp only [reqWord, BitVec.getLsbD_append]
  split
  · simp
  · rename_i h
    obtain rfl | rfl | rfl : j = 24 ∨ j = 25 ∨ j = 26 := by omega
    all_goals simp

theorem wt12 (x v : V12) : Statement (.wt12 x v) := masked_reqWord _ _
theorem gtf (x v : V12) : Statement (.gtf x v) := masked_reqWord _ _
theorem gta (x v : V12) : Statement (.gta x v) := masked_reqWord _ _
theorem enc (x d : V12) : Statement (.enc x d) := masked_reqWord _ _
theorem syn (rp rd : V12) : Statement (.syn rp rd) := masked_reqWord _ _
theorem eloc (rp rd : V12) : Statement (.eloc rp rd) := masked_reqWord _ _
theorem dec (rp rd : V12) : Statement (.dec rp rd) := masked_reqWord _ _
theorem rsv7 (x : W24) : Statement (.rsv7 x) := masked_reqWord _ _

end Sys2Proof.Laws.TableRow
end

