-- ==== Sys2Proof/Laws/Run.lean ====
section
/-! SUPPORT. The host's `run`, one step at a time: first of any machine, then of the core in the model's own state type. -/

namespace Sys2Proof.Machine

open Sys2Proof

/-- A run whose first step answers `t` goes on from `t`. -/
theorem run_succ_next (M : Host.Core) (k : Nat) {s t : M.State} (h : M.step s = .next t) : M.run (k + 1) s = M.run k t := by
  simp [Host.Core.run, h]

/-- A run whose first step is refused is refused. -/
theorem run_succ_refused (M : Host.Core) (k : Nat) {s : M.State} {r : M.Refusal} (h : M.step s = .refused r) :
    M.run (k + 1) s = .refused r := by
  simp [Host.Core.run, h]

theorem coreRun_zero (s : State) : core.run 0 s = .next s := rfl

theorem coreRun_succ_next (k : Nat) {s t : State} (h : step s = .next t) : core.run (k + 1) s = core.run k t :=
  run_succ_next core k h

theorem coreRun_succ_refused (k : Nat) {s : State} {r : Refusal} (h : step s = .refused r) :
    core.run (k + 1) s = .refused r :=
  run_succ_refused core k h

end Sys2Proof.Machine
end

