-- ==== Sys2Proof/Laws/Script.lean ====
section
/-! SUPPORT. What the operations of the script notation can do: the records, the meaning of a name, the host's XOR. Later proofs cite
these and leave `meaningOfName`, whose choice among several definitions is free, folded. -/

namespace Sys2Proof.Machine

open Sys2Proof

@[simp] theorem recordResponse_none (r : Response) (env : Records) : recordResponse none r env = env := rfl

@[simp] theorem recordResponse_some (n : Nat) (r : Response) (env : Records) :
    recordResponse (some n) r env = (n, r) :: env := rfl

/-- The definitions of a name are the responses recorded under it. -/
theorem mem_definitions {env : Records} {n : Nat} {r : Response} : r ∈ definitions env n ↔ (n, r) ∈ env := by
  simp [definitions]

/-- A name that some line defined stands for the response of one of those lines. -/
theorem meaningOfName_mem (n : Nat) {defs : List Response} (h : defs ≠ []) : ∃ r ∈ defs, meaningOfName n defs = some r := by
  match defs, h with
  | [r], _ => exact ⟨r, by simp, rfl⟩
  | r :: r' :: rs, _ =>
    have hlt : Config.chosenDefinition n ((r :: r' :: rs).map Response.word) % (r :: r' :: rs).length < (r :: r' :: rs).length :=
      Nat.mod_lt _ (by simp)
    exact ⟨_, List.getElem_mem hlt, List.getElem?_eq_getElem hlt⟩

/-- All a name can evaluate to: nothing where no line defined it, else what the response of one of its lines carries. -/
theorem evalTerm_name (env : Records) (n : Nat) :
    ((∀ x ∈ env, x.1 ≠ n) ∧ evalTerm env (.name n) = none) ∨ ∃ r, (n, r) ∈ env ∧ evalTerm env (.name n) = r.usable := by
  by_cases h : definitions env n = []
  · refine .inl ⟨fun x hx hn => ?_, by simp [evalTerm, h, meaningOfName]⟩
    have : x.2 ∈ definitions env n := mem_definitions.2 (hn ▸ hx)
    simp [h] at this
  · obtain ⟨r, hr, hm⟩ := meaningOfName_mem n h
    exact .inr ⟨r, mem_definitions.1 hr, by simp [evalTerm, hm]⟩

/-- One line whose operand has a value: one step of the core, and the response is recorded. -/
theorem runLine_of_operand {l : Line} {env : Records} {v : W24} (h : evalOperand env l = some v) (s : State) :
    runLine l env s = some (recordResponse l.target (responseOf (decode (reqWord l.mnemonic.op v))) env,
      s.answered (encode (decode (reqWord l.mnemonic.op v))) (responseOf (decode (reqWord l.mnemonic.op v)))) := by
  simp [runLine, lineRequest, h, State.present, step_cons, State.answered]

/-- One line whose operand has no value has no meaning. -/
theorem runLine_of_no_operand {l : Line} {env : Records} (h : evalOperand env l = none) (s : State) : runLine l env s = none := by
  simp [runLine, lineRequest, h]

end Sys2Proof.Machine
end

