-- ==== Sys2Proof/Laws/Transform.lean ====
section
/-! SUPPORT. The transform and the weight unrolled once: later proofs rewrite with these and leave the definitions folded. -/

namespace Sys2Proof.Machine

open Sys2Proof

/-- The transform is a fold over the row indices, whatever it starts from: the start value comes out of the XOR. -/
theorem transformFold_start (M : Matrix12) (x : V12) (is : List (Fin 12)) (acc : V12) :
    is.foldl (fun acc i => if x[i] then acc ^^^ M[i] else acc) acc =
      acc ^^^ is.foldl (fun acc i => if x[i] then acc ^^^ M[i] else acc) 0#12 := by
  induction is generalizing acc with
  | nil => simp
  | cons i is ih =>
    simp only [List.foldl_cons]
    rw [ih, ih (if x[i] then 0#12 ^^^ M[i] else 0#12)]
    split <;> simp [BitVec.xor_assoc]

/-- Every index 0 to 11 is searched. -/
theorem mem_indices12 (i : Fin 12) : i ∈ indices12 := by revert i; decide

/-- They are searched in increasing order, each once. -/
theorem indices12_increasing : indices12.Pairwise (· < ·) := by decide

/-- One bit of a vector counts 0 or 1. -/
theorem wt12_le (v : V12) : wt12 v ≤ 12 := by
  have h : ∀ b : Bool, b.toNat ≤ 1 := by decide
  have := h v[0]; have := h v[1]; have := h v[2]; have := h v[3]; have := h v[4]; have := h v[5]
  have := h v[6]; have := h v[7]; have := h v[8]; have := h v[9]; have := h v[10]; have := h v[11]
  unfold wt12
  omega

end Sys2Proof.Machine
end

