-- ==== Sys2Proof/Machine/ScriptText.lean ====
section
/-! DEFINITION. The text of scripts (30_encoding.md R40's grammar), read from a list of characters: one line of the script a line of
the text, blanks between its parts. What the grammar leaves open (blanks, empty lines, letter case of hex digits, leading zeros
of a name) is fixed in log entry 10. -/

namespace Sys2Proof.Machine

open Sys2Proof

/-- The parts of a line's text. -/
inductive Token where
  | equals
  | caret
  | word (cs : List Char)
deriving DecidableEq, Repr

/-- Close the word being read; `acc` holds its characters in reverse. -/
def closeWord (acc : List Char) (rest : List Token) : List Token :=
  if acc.isEmpty then rest else .word acc.reverse :: rest

/-- Cut a line into tokens. -/
def tokens (acc : List Char) : List Char → List Token
  | [] => closeWord acc []
  | c :: cs =>
    if c = ' ' then closeWord acc (tokens [] cs)
    else if c = '=' then closeWord acc (.equals :: tokens [] cs)
    else if c = '^' then closeWord acc (.caret :: tokens [] cs)
    else tokens (c :: acc) cs

/-- The value of a hex digit, of either letter case. -/
def hexDigit (c : Char) : Option Nat :=
  if '0' ≤ c ∧ c ≤ '9' then some (c.toNat - 48)
  else if 'A' ≤ c ∧ c ≤ 'F' then some (c.toNat - 55)
  else if 'a' ≤ c ∧ c ≤ 'f' then some (c.toNat - 87)
  else none

/-- The value of a decimal digit. -/
def decDigit (c : Char) : Option Nat :=
  if '0' ≤ c ∧ c ≤ '9' then some (c.toNat - 48) else none

/-- The number a list of digits spells in a base, after the digits whose number is `acc`. -/
def digitsValue (digit : Char → Option Nat) (base acc : Nat) : List Char → Option Nat
  | [] => some acc
  | c :: cs => (digit c).bind fun d => digitsValue digit base (base * acc + d) cs

/-- At least one digit. -/
def numeral (digit : Char → Option Nat) (base : Nat) (cs : List Char) : Option Nat :=
  if cs.isEmpty then none else digitsValue digit base 0 cs

/-- `name := "r" decimal` (30_encoding.md R40). -/
def readName : List Char → Option Nat
  | 'r' :: cs => numeral decDigit 10 cs
  | _ => none

/-- `term := hexliteral | name`, `hexliteral := "0x" hexdigit+` (30_encoding.md R40). -/
def readTerm : List Char → Option Term
  | '0' :: 'x' :: cs => (numeral hexDigit 16 cs).map .literal
  | cs => (readName cs).map .name

/-- The eight spellings of 30_encoding.md R40. -/
def readMnemonic (cs : List Char) : Option Mnemonic :=
  if cs = ['W', 'T', '1', '2'] then some .wt12
  else if cs = ['G', 'T', 'F'] then some .gtf
  else if cs = ['G', 'T', 'A'] then some .gta
  else if cs = ['E', 'N', 'C'] then some .enc
  else if cs = ['S', 'Y', 'N'] then some .syn
  else if cs = ['E', 'L', 'O', 'C'] then some .eloc
  else if cs = ['D', 'E', 'C'] then some .dec
  else if cs = ['R', 'S', 'V', '7'] then some .rsv7
  else none

/-- `( "^" term )*` (30_encoding.md R40). -/
def readOthers : List Token → Option (List Term)
  | [] => some []
  | .caret :: .word cs :: ts =>
    (readTerm cs).bind fun t => (readOthers ts).map fun others => t :: others
  | _ => none

/-- `mnemonic operand`, after an optional name (30_encoding.md R40). -/
def readBody (target : Option Nat) : List Token → Option Line
  | .word m :: .word t :: ts =>
    (readMnemonic m).bind fun mnemonic => (readTerm t).bind fun first =>
      (readOthers ts).map fun others => { target, mnemonic, first, others }
  | _ => none

/-- `line := [ name "=" ] mnemonic operand` (30_encoding.md R40). -/
def readLine : List Token → Option Line
  | .word n :: .equals :: ts => (readName n).bind fun r => readBody (some r) ts
  | ts => readBody none ts

/-- The lines of a text; `acc` holds the line being read, in reverse. -/
def textLines (acc : List Char) : List Char → List (List Char)
  | [] => [acc.reverse]
  | c :: cs => if c = '\n' then acc.reverse :: textLines [] cs else textLines (c :: acc) cs

/-- `script := line*`, lines without tokens left out (30_encoding.md R40, log entry 10). -/
def readLines : List (List Char) → Option Script
  | [] => some []
  | l :: ls =>
    if (tokens [] l).isEmpty then readLines ls
    else (readLine (tokens [] l)).bind fun line => (readLines ls).map fun rest => line :: rest

/-- The script a text spells, if it spells one. -/
def readScript (text : List Char) : Option Script := readLines (textLines [] text)

end Sys2Proof.Machine
end

