-- ==== Sys2Proof/Tests/Slice0.lean ====
section
/-! SUPPORT. The model's own tests. Every expected value is one of 95_test_vectors.md or of the rule named beside it; none is the
model's own answer pasted back. After them stand the witnesses: for each statement of Certificates/Slice0/Obligations that has
hypotheses, concrete values that meet them. -/

namespace Sys2Proof.Tests

open Sys2Proof Sys2Proof.Machine

-- Helpers

/-- A state with one request pending. -/
def pending (w : ReqWord) : State := State.reset.present w

/-- The response word of the last exchange after one step. -/
def stepWord (s : State) : Option RspWord :=
  match step s with
  | .next t => t.exchanges.getLast?.map (·.response.word)
  | .fault _ => none
  | .refused _ => none

-- Well-formedness (60_exceptions.md R66: no instruction is ill formed; 30_encoding.md R40: scripts can be)

theorem test_everyInstr_wellFormed (i : Instr) : i.wellFormed = true := by cases i <;> rfl

theorem test_term_literalTooWide_illFormed : Term.wellFormed [] (.literal 0x1000000) = false := by decide
theorem test_term_widestLiteral_wellFormed : Term.wellFormed [] (.literal 0xFFFFFF) = true := by decide
theorem test_term_undefinedName_illFormed : Term.wellFormed [1] (.name 2) = false := by decide
theorem test_line_undefinedNameInXor_illFormed :
    Line.wellFormed [1] { target := some 1, mnemonic := .enc, first := .literal 0, others := [.name 2] } = false := by decide
theorem test_script_useBeforeDefinition_illFormed :
    scriptWellFormed [] [{ target := some 2, mnemonic := .syn, first := .name 1, others := [] },
      { target := some 1, mnemonic := .enc, first := .literal 0x123, others := [] }] = false := by decide
/-- `r1 = ENC 0x1`, `r2 = DEC r1`, `r1 = ENC 0x2`: R40 names no repeated definition ill-formed. -/
def repeatedName : Script :=
  [{ target := some 1, mnemonic := .enc, first := .literal 0x1, others := [] },
   { target := some 2, mnemonic := .dec, first := .name 1, others := [] },
   { target := some 1, mnemonic := .enc, first := .literal 0x2, others := [] }]
theorem test_script_repeatedName_wellFormed : scriptWellFormed [] repeatedName = true := by decide
/-- Its responses: `ENC 0x001` and `ENC 0x002` of 95_test_vectors.md 2.4, and between them the data word 0x001 of the first (R62). -/
theorem test_script_repeatedName_hasMeaning :
    (runScript repeatedName State.reset).map (fun p => p.2.exchanges.map (·.response.word)) =
      some [0x0C75001, 0x0000001, 0x049F002] := by decide

-- Decoding: words written out from spec/opcode_table.json, bit 26 first

theorem test_decode_wt12 : decode 0b000_101010111100_000100100011#27 = .wt12 0xABC 0x123 := by decide
theorem test_decode_gtf : decode 0b001_000000000001_100000000000#27 = .gtf 0x001 0x800 := by decide
theorem test_decode_gta : decode 0b010_100000000000_000000000001#27 = .gta 0x800 0x001 := by decide
theorem test_decode_enc : decode 0b011_101010111100_000100100011#27 = .enc 0xABC 0x123 := by decide
theorem test_decode_syn : decode 0b100_000101010100_000100000011#27 = .syn 0x154 0x103 := by decide
theorem test_decode_eloc : decode 0b101_000001011110_001100100111#27 = .eloc 0x05E 0x327 := by decide
theorem test_decode_dec : decode 0b110_000001011110_001100100111#27 = .dec 0x05E 0x327 := by decide
theorem test_decode_rsv7 : decode 0b111_000001010110_000100100011#27 = .rsv7 0x056123 := by decide
theorem test_encode_scriptExamples :
    encode (.enc 0x000 0x123) = 0x3000123 ∧ encode (.dec 0x056 0x122) = 0x6056122 := by decide
theorem test_decodeTableWord_paddingDropped :
    decodeTableWord 32 0xF8000123 = some (.wt12 0 0x123) := by decide

-- Operations: one step each, request and response words of 95_test_vectors.md Part 2

theorem test_wt12_allOnes_ignoredSet : stepWord (pending 0x0FFFFFF) = some 0x000000C := by decide
theorem test_wt12_ignoredOnly : stepWord (pending 0x0FFF000) = some 0x0000000 := by decide
theorem test_gtf_mixed : stepWord (pending 0x1ABC123) = some 0x0000056 := by decide
theorem test_gtf_lastRow : stepWord (pending 0x1000800) = some 0x0000E3A := by decide
theorem test_gta_mixed : stepWord (pending 0x2ABC123) = some 0x00000AC := by decide
theorem test_gta_lastRow : stepWord (pending 0x2000800) = some 0x0000C75 := by decide
theorem test_enc_ignoredSet : stepWord (pending 0x3ABC123) = some 0x0056123 := by decide
theorem test_enc_fixedPoint : stepWord (pending 0x3000FFF) = some 0x0FFFFFF := by decide
theorem test_syn_threeErrors : stepWord (pending 0x4154103) = some 0x0000A64 := by decide
theorem test_syn_parityBit11 : stepWord (pending 0x4800000) = some 0x0000800 := by decide
theorem test_eloc_step5 : stepWord (pending 0x505E327) = some 0x0008204 := by decide
theorem test_eloc_uncorrectable : stepWord (pending 0x5055120) = some 0x1000000 := by decide
theorem test_dec_step3 : stepWord (pending 0x6154103) = some 0x0000123 := by decide
theorem test_dec_uncorrectable : stepWord (pending 0x600F000) = some 0x1000000 := by decide
theorem test_rsv7_validCodewordOperand : stepWord (pending 0x7056123) = some 0x2000000 := by decide

-- The step, the ports, the system, scripts

/-- 20_memory.md R25: nothing of the record or of the later requests is lost. -/
theorem test_step_keepsTheRest :
    (match step { requests := [0x3000001, 0x7000000], exchanges := [⟨0x0000000, ⟨0, false, false⟩⟩] } with
      | .next t => decide (t.requests = [0x7000000] ∧ t.exchanges =
          [⟨0x0000000, ⟨0, false, false⟩⟩, ⟨0x3000001, ⟨0xC75001, false, false⟩⟩])
      | _ => false) = true := by decide
/-- 30_encoding.md R33, 93_implementation_defined.md U2: a failed response has no usable value. -/
theorem test_usable_notOfFailed : rspUncorrectable.usable = none ∧ rspIllegal.usable = none ∧ (rspOk 0).usable = some 0 := by
  decide
/-- 30_encoding.md R42 with the vectors of `DEC` rows 23 and 26. -/
theorem test_decoderPort : decoderPort 0x154103 = (0x123, false) ∧ decoderPort 0x055120 = (0, true) := by decide
/-- 43_syndrome_error_locator.md R59: all 26 conditions. -/
theorem test_locatorCandidates_count : (locatorCandidates 0xAF7).length = 26 ∧ matchingPatterns 0xAF7 = [0x008204] := by decide
/-- 95_test_vectors.md P1 line 1, as text: `r1 = ENC 0x123`. -/
theorem test_readScript_line :
    readScript ['r', '1', ' ', '=', ' ', 'E', 'N', 'C', ' ', '0', 'x', '1', '2', '3'] =
      some [{ target := some 1, mnemonic := .enc, first := .literal 0x123, others := [] }] := by decide
/-- 95_test_vectors.md P2 line 2, as text: `SYN r1 ^ 0x804008`. -/
theorem test_readScript_xor :
    readScript ['S', 'Y', 'N', ' ', 'r', '1', ' ', '^', ' ', '0', 'x', '8', '0', '4', '0', '0', '8'] =
      some [{ target := none, mnemonic := .syn, first := .name 1, others := [.literal 0x804008] }] := by decide
/-- A mnemonic R40 does not have is not read. -/
theorem test_readScript_unknownMnemonic : readScript ['D', 'I', 'V', ' ', '0', 'x', '0'] = none := by decide
/-- 95_test_vectors.md P2 line 2: `SYN r1 ^ 0x804008` with `r1 = 0x4C67A5` presents `0x4CC27AD`. -/
theorem test_lineRequest_hostXor :
    lineRequest [(1, rspOk 0x4C67A5)] { target := none, mnemonic := .syn, first := .name 1, others := [.literal 0x804008] } =
      some 0x4CC27AD := by decide

-- Witnesses for the statements that have hypotheses

/-- EncodeDecodeAgree. -/
theorem witness_wellFormed : Instr.wellFormed (.eloc 0x05E 0x327) = true := by decide

/-- ElocAnswersBySearchOrder, clause of step 2, at the threshold: 95_test_vectors.md 2.6 row 6. -/
theorem witness_eloc_step2 : wt12 (0x007#12 ^^^ gt fwd 0x000#12) = 3 := by decide
/-- Clause of step 3 at its threshold and at the last index: rows 12 (`i = 0`) and 11 (`i = 11`). -/
theorem witness_eloc_step3 :
    (let σ := 0x003#12 ^^^ gt fwd 0x001#12
     ¬ wt12 σ ≤ 3 ∧ wt12 (σ ^^^ fwd[(0 : Fin 12)]) = 2 ∧ ∀ j : Fin 12, j < 0 → ¬ wt12 (σ ^^^ fwd[j]) ≤ 2) ∧
    (let σ := 0x801#12 ^^^ gt fwd 0x800#12
     ¬ wt12 σ ≤ 3 ∧ wt12 (σ ^^^ fwd[(11 : Fin 12)]) = 2 ∧ ∀ j : Fin 12, j < 11 → ¬ wt12 (σ ^^^ fwd[j]) ≤ 2) := by decide
/-- Clause of step 4 at its threshold: row 14. -/
theorem witness_eloc_step4 :
    let σ := 0x000#12 ^^^ gt fwd 0x007#12
    ¬ wt12 σ ≤ 3 ∧ (∀ j : Fin 12, ¬ wt12 (σ ^^^ fwd[j]) ≤ 2) ∧ wt12 (gt alt σ) = 3 := by decide
/-- Clause of step 5 at its threshold, first and last index: rows 16 (`i = 0`) and 17 (`i = 11`). -/
theorem witness_eloc_step5 :
    (let σ := 0x001#12 ^^^ gt fwd 0x003#12
     ¬ wt12 σ ≤ 3 ∧ (∀ j : Fin 12, ¬ wt12 (σ ^^^ fwd[j]) ≤ 2) ∧ ¬ wt12 (gt alt σ) ≤ 3 ∧
       wt12 (gt alt σ ^^^ alt[(0 : Fin 12)]) = 2 ∧ ∀ j : Fin 12, j < 0 → ¬ wt12 (gt alt σ ^^^ alt[j]) ≤ 2) ∧
    (let σ := 0x800#12 ^^^ gt fwd 0xC00#12
     ¬ wt12 σ ≤ 3 ∧ (∀ j : Fin 12, ¬ wt12 (σ ^^^ fwd[j]) ≤ 2) ∧ ¬ wt12 (gt alt σ) ≤ 3 ∧
       wt12 (gt alt σ ^^^ alt[(11 : Fin 12)]) = 2 ∧ ∀ j : Fin 12, j < 11 → ¬ wt12 (gt alt σ ^^^ alt[j]) ≤ 2) := by decide
/-- Clause of step 6, just over the threshold of step 2: row 7. UncorrectableExactCause. -/
theorem witness_eloc_step6 : NoCandidate (0x00F#12 ^^^ gt fwd 0x000#12) := by decide
/-- DecAnswersFromLocator: `ELOC` fails on row 7 and succeeds on row 6. -/
theorem witness_dec_locatorResponses :
    (rspOption (errorPattern 0x00F000)).fail = true ∧ (rspOption (errorPattern 0x007000)).fail = false := by decide
/-- IgnoredOperandBits and EveryRequestIsAnswered: the select codes they name. -/
theorem witness_selectCodes : 3#3 ∈ [0#3, 1#3, 2#3, 3#3] ∧ 6#3 ∈ [4#3, 5#3, 6#3] ∧ 4#3 ∈ [0#3, 1#3, 2#3, 3#3, 4#3] := by decide
/-- WeightLaws: the largest weight counted. TransformsAreLinear: both matrices. -/
theorem witness_weight_and_matrix : 12 ≤ 12 ∧ alt ∈ [fwd, alt] ∧ fwd ∈ [fwd, alt] := by decide
/-- TransformsUndoEachOther, SyndromeLaws, DecCommutesWithCodewords: a valid codeword (95_test_vectors.md 2.4). -/
theorem witness_codeword : IsCodeword 0x056123 := by decide
/-- CodewordSetLaws: two data words whose codewords are at the minimum distance (95_test_vectors.md P4). -/
theorem witness_distinctDataWords : 0x123#12 ≠ 0x5BC#12 ∧ distance (codeword 0x123) (codeword 0x5BC) = 8 := by decide
/-- LocatorConditionsAreExact and LocatorPatternIsUnique: a pattern at the bound, returned by a condition of its syndrome. -/
theorem witness_lightPattern :
    wt24 0x102020 = 3 ∧ syndrome 0x102020 = 0xA64 ∧ 0x102020#24 ∈ matchingPatterns 0xA64 := by decide
/-- ElocDependsOnSyndromeOnly: rows 19 and 26 are different words with one syndrome. -/
theorem witness_sameSyndrome : syndrome 0x003003 = syndrome 0x055120 ∧ 0x003003#24 ≠ 0x055120#24 := by decide
/-- ElocLocatesUpToThreeErrors and DecCorrectsUpToThreeErrors, at three errors. -/
theorem witness_threeErrors : IsCodeword 0x056123 ∧ wt24 0x102020 ≤ 3 := by decide
/-- FourErrorsAreUncorrectable. -/
theorem witness_fourErrors : IsCodeword 0xFFFFFF ∧ wt24 0x081081 = 4 := by decide
/-- FiveOrMoreErrorsMislead: each number of errors it names. -/
theorem witness_manyErrors :
    IsCodeword 0x056123 ∧ wt24 0x00001F = 5 ∧ wt24 0x00007F = 7 ∧ 6 ∈ [6, 8] ∧ 8 ∈ [6, 8] := by decide
/-- DecAnswersNearestCodeword and the first clause of DecCommutesWithCodewords: row 23. -/
theorem witness_dec_success : Answers (6#3 ++ 0x154103#24) { dout := (0x123#12).setWidth 24, fail := false, ill := false } :=
  fun _ _ => rfl
/-- The second clause of DecCommutesWithCodewords and UncorrectableIffFarFromTheCode: row 26. -/
theorem witness_dec_failure :
    Answers (6#3 ++ 0x055120#24) { dout := 0x000000, fail := true, ill := false } ∧
    Answers (5#3 ++ 0x055120#24) { dout := 0x000000, fail := true, ill := false } :=
  ⟨fun _ _ => rfl, fun _ _ => rfl⟩
/-- The clause of DecAnswersNearestCodeword about codewords near the operand. -/
theorem witness_nearCodeword : IsCodeword 0x056123 ∧ distance 0x154103 0x056123 ≤ 3 := by decide
/-- IllegalOpExactCause: the reserved select is answered with `ill = 1`. -/
theorem witness_illegal : Answers 0x7FFFFFF#27 { dout := 0x000000, fail := false, ill := true } := fun _ _ => rfl
/-- ExecAddsOneExchange. -/
theorem witness_execNext : ∃ t, exec (.enc 0 0x123) (pending 0x7000000) = .next t := ⟨_, rfl⟩
/-- ResponseDependsOnRequestAlone: two different states with one next request. -/
theorem witness_sameNextRequest : ∃ s s' t t' : State, s ≠ s' ∧
    s.requests.head? = some 0x3000123 ∧ s'.requests.head? = some 0x3000123 ∧ step s = .next t ∧ step s' = .next t' :=
  ⟨pending 0x3000123, { requests := [0x3000123, 0x7000000], exchanges := [⟨0x7000000, rspIllegal⟩] }, _, _, by decide, rfl, rfl,
    rfl, rfl⟩
/-- InvariantKeptByEveryStep. -/
theorem witness_invariant : (pending 0x5154103).Inv ∧ ∃ s', step (pending 0x5154103) = .next s' :=
  ⟨fun _ hx => (nomatch hx), ⟨_, rfl⟩⟩
/-- InstancesAreIndependent: two instances, three steps, in turns. -/
theorem witness_schedule : ∃ sys out : System, sys.runSchedule [0, 1, 0] = .next out ∧ sys[1]? = some (pending 0x3000123) :=
  ⟨[{ requests := [0x0000007, 0x7000000], exchanges := [] }, pending 0x3000123], _, rfl, rfl⟩
/-- FiveOrMoreErrorsMislead: the clause for every weight from 5 on, at its bound and beyond 8. -/
theorem witness_fiveOrMoreErrors : IsCodeword 0x056123 ∧ 5 ≤ wt24 0x00001F ∧ 5 ≤ wt24 0xFFFFFF := by decide
/-- ScriptLineIsOneRequest, literals: the widest in range and the narrowest out of range. -/
theorem witness_scriptLiteral : 0xFFFFFF < 2 ^ 24 ∧ (2 : Nat) ^ 24 ≤ 0x1000000 ∧
    Term.literal 0x1000000 ∈ [Term.name 1, Term.literal 0x1000000] := by decide
/-- A name with one record, a success. -/
theorem witness_scriptName : (1, rspOk 0x056123) ∈ [(1, rspOk 0x056123), (2, rspIllegal)] ∧
    (∀ x ∈ [(1, rspOk 0x056123), (2, rspIllegal)], x.1 = 1 → x.2 = rspOk 0x056123) ∧ (rspOk 0x056123).fail = false := by decide
/-- A name with two different records, both successes. -/
theorem witness_scriptNameTwice : (∃ x ∈ [(1, rspOk 0xC75001), (1, rspOk 0x49F002)], x.1 = 1) ∧
    (∀ x ∈ [(1, rspOk 0xC75001), (1, rspOk 0x49F002)], x.1 = 1 → x.2.fail = false ∧ x.2.ill = false) := by decide
/-- An operand of two terms with values under a line's name, and a line without a name. -/
theorem witness_scriptOperand :
    [Term.name 1, Term.literal 0x00000F].map (evalTerm [(1, rspOk 0x056123)]) = [0x056123#24, 0x00000F#24].map some ∧
    evalOperand [(1, rspOk 0x056123)] { target := some 2, mnemonic := .dec, first := .name 1, others := [.literal 0x00000F] } =
      some 0x05612C ∧
    evalOperand [] { target := none, mnemonic := .wt12, first := .literal 0xFFF, others := [] } = some 0x000FFF := by decide
/-- A line that uses a name with two responses, one failed and one illegal, and one that uses a name with none. -/
theorem witness_scriptNoValue :
    Term.name 3 ∈ [Term.literal 0, Term.name 3] ∧
    (∀ x ∈ [(3, rspUncorrectable), (3, rspIllegal)], x.1 = 3 → x.2.fail = true ∨ x.2.ill = true) ∧
    (∀ x ∈ [(1, rspOk 0x056123)], x.1 = 3 → x.2.fail = true ∨ x.2.ill = true) := by decide
/-- WellFormedScriptHasMeaning: a script that defines a name twice and uses it, and one that uses a name before its definition. -/
theorem witness_script :
    scriptWellFormed [] repeatedName = true ∧
    (∀ l ∈ repeatedName, ∀ n, l.target = some n → (∃ k ∈ repeatedName, Term.name n ∈ k.first :: k.others) →
      l.mnemonic ∈ [Mnemonic.wt12, .gtf, .gta, .enc, .syn]) ∧
    (∀ k ∈ repeatedName, k.target ≠ some 3) :=
  ⟨by decide, by simp [repeatedName], by decide⟩

end Sys2Proof.Tests
end

section
/-! What the decoder reads from a request word, and that no bit of it is lost (30_encoding.md R32, R34, R35). -/

namespace Sys2Proof.Machine

open Sys2Proof

/-- The row is the one with the word's select code. -/
@[simp] theorem decode_op (w : ReqWord) : (decode w).op = reqOp w := by
  unfold decode
  split
  all_goals
    rename_i h
    exact h.symm

/-- Every operand format keeps both halves of `din`, the ignored one too. -/
@[simp] theorem decode_din (w : ReqWord) : (decode w).din = reqDin w := by
  unfold decode
  split
  case h_8 => rfl
  all_goals exact cat_high_low (reqDin w)

/-- Encoding gives back the request word that was decoded. -/
@[simp] theorem encode_decode (w : ReqWord) : encode (decode w) = w := by
  rw [encode, decode_op, decode_din, reqWord_fields]

end Sys2Proof.Machine
end

section
/-! What a step and the reset core answer to a request, as the response of the decoded operation (00_scope.md R11). -/

namespace Sys2Proof.Machine

open Sys2Proof

/-- A step with a request pending records that request with its operation's response, and takes it. -/
theorem answers_responseOf_decode (w : ReqWord) : Answers w (responseOf (decode w)) := by
  intro rest ex
  rw [step_cons, encode_decode]

theorem step_of_head? {s : State} {w : ReqWord} (h : s.requests.head? = some w) :
    step s = .next { requests := s.requests.tail,
                     exchanges := s.exchanges ++ [{ request := w, response := responseOf (decode w) }] } := by
  obtain ⟨rest, hs⟩ := List.head?_eq_some_iff.mp h
  obtain ⟨requests, exchanges⟩ := s
  subst hs
  exact answers_responseOf_decode w rest exchanges

/-- The newest exchange after a step is the request that was next, with its operation's response. -/
theorem getLast?_exchanges_of_step {s t : State} {w : ReqWord} (hw : s.requests.head? = some w) (hst : step s = .next t) :
    t.exchanges.getLast? = some { request := w, response := responseOf (decode w) } := by
  rw [step_of_head? hw] at hst
  cases hst
  exact List.getLast?_concat

theorem freshResponse_eq (w : ReqWord) : freshResponse w = some (responseOf (decode w)) := by
  have hstep : step (State.reset.present w) = _ := answers_responseOf_decode w [] []
  rw [freshResponse, hstep]
  rfl

end Sys2Proof.Machine
end

section
/-! The obligations of 00_scope.md: a step is the evaluation of one request, and its response depends on the request alone. -/

namespace Sys2Proof.Machine

open Sys2Proof

/-- Settles O42: the response is that of the decoded operation, whatever the state. -/
theorem responseDependsOnRequestAlone : Obligations.ResponseDependsOnRequestAlone := by
  constructor
  · intro w
    exact ⟨responseOf (decode w), answers_responseOf_decode w, freshResponse_eq w⟩
  · intro s s' t t' w hs hs' hst hst'
    rw [getLast?_exchanges_of_step hs hst, getLast?_exchanges_of_step hs' hst']
    exact ⟨rfl, rfl⟩

/-- Settles O1, by the definition of a step. -/
theorem stepRunsDecodedRequest : Obligations.StepRunsDecodedRequest := by
  intro w rest ex
  rfl

/-- Settles O44, by cases on the pending requests. -/
theorem stepRefusedOnlyWithoutRequest : Obligations.StepRefusedOnlyWithoutRequest := by
  rintro ⟨requests, exchanges⟩
  cases requests with
  | nil => simp [step_nil]
  | cons w rest => simp [step_cons]

end Sys2Proof.Machine
end

section
/-! What one step of a system and what a schedule can do (20_memory.md R27): the instance that moves takes one step of its own, and
every other instance is left as it is. -/

namespace Sys2Proof.Machine

open Sys2Proof

/-- A system's step that answers is the step of one instance that is there. -/
theorem System.stepAt_next {sys sys' : System} {k : Nat} (h : sys.stepAt k = .next sys') :
    ∃ s t, sys[k]? = some s ∧ step s = .next t ∧ sys' = sys.set k t := by
  unfold System.stepAt at h
  split at h
  case h_1 => cases h
  case h_2 s hs =>
    split at h
    case h_1 t hst =>
      cases h
      exact ⟨s, t, hs, hst, rfl⟩
    all_goals cases h

theorem System.stepAt_length {sys sys' : System} {k : Nat} (h : sys.stepAt k = .next sys') : sys'.length = sys.length := by
  obtain ⟨s, t, -, -, rfl⟩ := System.stepAt_next h
  exact List.length_set

/-- The instance that moves is where its own step leads. -/
theorem System.stepAt_getElem?_self {sys sys' : System} {k : Nat} {s : State} (h : sys.stepAt k = .next sys')
    (hs : sys[k]? = some s) : ∃ t, step s = .next t ∧ sys'[k]? = some t := by
  obtain ⟨s₀, t, hs₀, hst, rfl⟩ := System.stepAt_next h
  obtain rfl : s₀ = s := Option.some.inj (hs₀.symm.trans hs)
  have hk : k < sys.length := (List.getElem?_eq_some_iff.mp hs).1
  exact ⟨t, hst, List.getElem?_set_self hk⟩

/-- An instance that does not move stays where it is. -/
theorem System.stepAt_getElem?_ne {sys sys' : System} {k j : Nat} (h : sys.stepAt k = .next sys') (hkj : k ≠ j) :
    sys'[j]? = sys[j]? := by
  obtain ⟨s, t, -, -, rfl⟩ := System.stepAt_next h
  exact List.getElem?_set_ne hkj

/-- A schedule that completes takes its first step and then completes. -/
theorem System.runSchedule_cons_next {sys out : System} {k : Nat} {ks : List Nat}
    (h : sys.runSchedule (k :: ks) = .next out) : ∃ sys', sys.stepAt k = .next sys' ∧ sys'.runSchedule ks = .next out := by
  rw [System.runSchedule] at h
  split at h
  case h_1 sys' hstep => exact ⟨sys', hstep, h⟩
  all_goals cases h

theorem System.runSchedule_length {ks : List Nat} {sys out : System} (h : sys.runSchedule ks = .next out) :
    out.length = sys.length := by
  induction ks generalizing sys with
  | nil => cases h; rfl
  | cons k ks ih =>
    obtain ⟨sys', hstep, hrest⟩ := System.runSchedule_cons_next h
    exact (ih hrest).trans (System.stepAt_length hstep)

/-- An instance ends where its own run of as many steps as the schedule names it ends: a step of its own is the first step of that
run, a step of another instance changes nothing for it. -/
theorem System.runSchedule_getElem? {ks : List Nat} {sys out : System} (h : sys.runSchedule ks = .next out) {j : Nat} {s : State}
    (hs : sys[j]? = some s) : ∃ t, core.run (ks.count j) s = .next t ∧ out[j]? = some t := by
  induction ks generalizing sys s with
  | nil =>
    cases h
    exact ⟨s, coreRun_zero s, hs⟩
  | cons k ks ih =>
    obtain ⟨sys', hstep, hrest⟩ := System.runSchedule_cons_next h
    by_cases hkj : k = j
    · subst hkj
      obtain ⟨s', hss', hs'⟩ := System.stepAt_getElem?_self hstep hs
      rw [List.count_cons_self, coreRun_succ_next _ hss']
      exact ih hrest hs'
    · rw [List.count_cons_of_ne hkj]
      exact ih hrest ((System.stepAt_getElem?_ne hstep hkj).trans hs)

end Sys2Proof.Machine
end

section
/-! The obligations of 20_memory.md: the frame of every operation, and instances that share nothing. -/

namespace Sys2Proof.Machine

open Sys2Proof

/-- Settles O41: every operation answers by recording its one exchange. -/
theorem execAddsOneExchange : Obligations.ExecAddsOneExchange := by
  intro i s
  refine ⟨⟨_, exec_eq_answered i s⟩, fun t ht => ?_⟩
  obtain rfl : s.answered (encode i) (responseOf i) = t :=
    Host.Outcome.next.inj ((exec_eq_answered i s).symm.trans ht)
  exact ⟨State.answered_requests .., responseOf i, State.answered_exchanges ..⟩

/-- Settles O48, by induction on the schedule. -/
theorem instancesAreIndependent : Obligations.InstancesAreIndependent := by
  intro schedule sys out h
  exact ⟨System.runSchedule_length h, fun _ _ hs => System.runSchedule_getElem? h hs⟩

end Sys2Proof.Machine
end

section
/-! The encoder and the decoder undo each other, and the request word as a number (30_encoding.md R32, R34, R35). -/

namespace Sys2Proof.Machine

open Sys2Proof

@[simp] theorem reqOp_encode (i : Instr) : reqOp (encode i) = i.op := reqOp_reqWord i.op i.din

@[simp] theorem reqDin_encode (i : Instr) : reqDin (encode i) = i.din := reqDin_reqWord i.op i.din

@[simp] theorem ignoredV12_cat (x v : V12) : ignoredV12 (cat x v) = x := high_cat x v
@[simp] theorem operandV12_cat (x v : V12) : operandV12 (cat x v) = v := low_cat x v
@[simp] theorem receivedParity_cat (rp rd : V12) : receivedParity (cat rp rd) = rp := high_cat rp rd
@[simp] theorem receivedData_cat (rp rd : V12) : receivedData (cat rp rd) = rd := low_cat rp rd

/-- Decoding gives back the operation that was encoded: its select code picks its row, and its operand format cuts `din` where the
encoder joined it. -/
@[simp] theorem decode_encode (i : Instr) : decode (encode i) = i := by
  rw [decode, reqOp_encode, reqDin_encode]
  cases i <;> simp [Instr.op, Instr.din, ignoredNone]

theorem reqWord_toNat (op : OpSel) (din : W24) : (reqWord op din).toNat = op.toNat * 2 ^ 24 + din.toNat := by
  rw [reqWord, BitVec.toNat_append, ← Nat.shiftLeft_add_eq_or_of_lt din.isLt, Nat.shiftLeft_eq]

/-- The match word of a row, `op << 24`. -/
theorem rowMatch_eq_ofNat (op : OpSel) : rowMatch op = BitVec.ofNat 27 (op.toNat * 2 ^ 24) := by
  have htoNat : (rowMatch op).toNat = op.toNat * 2 ^ 24 := by simp [rowMatch, reqWord_toNat]
  rw [← htoNat, BitVec.ofNat_toNat, BitVec.setWidth_eq]

/-- Rows have different match words. -/
theorem rowMatch_inj {op op' : OpSel} : rowMatch op = rowMatch op' ↔ op = op' := by
  refine ⟨fun h => ?_, congrArg rowMatch⟩
  simpa only [rowMatch, reqOp_reqWord] using congrArg reqOp h

/-- Under the mask a request word is the match word of the row it selects. -/
theorem and_rowMask (w : ReqWord) : w &&& rowMask = rowMatch (reqOp w) := by
  simpa only [reqWord_fields] using Laws.TableRow.masked_reqWord (reqOp w) (reqDin w)

/-- The core answers the request word of an operation with that operation's response. -/
theorem answers_encode (i : Instr) : Answers (encode i) (responseOf i) := by
  simpa only [decode_encode] using answers_responseOf_decode (encode i)

/-- The core answers a request the host has just presented as the operation its word decodes to. -/
theorem step_present (s : State) (w : ReqWord) : step (s.present w) = exec (decode w) s := by
  rw [step, takeRequest_present]

end Sys2Proof.Machine
end

section
/-! The obligations of 30_encoding.md about request words: R32, R34, R35. -/

namespace Sys2Proof.Machine

open Sys2Proof

/-- Settles O3: a request word and the operation it decodes to have one select code and one operand word. -/
theorem encodeDecodeAgree : Obligations.EncodeDecodeAgree :=
  ⟨fun i _ => decode_encode i, fun w => ⟨encode_decode w, by cases decode w <;> rfl⟩⟩

/-- Settles O4: under the mask a word is the match word of its row, and rows have different match words. -/
theorem maskAndMatchSelectTheRow : Obligations.MaskAndMatchSelectTheRow := by
  intro w op
  calc w &&& 0x7000000#27 = BitVec.ofNat 27 (op.toNat * 2 ^ 24)
    _ ↔ rowMatch (reqOp w) = rowMatch op := by rw [← rowMatch_eq_ofNat, ← and_rowMask, rowMask]
    _ ↔ reqOp w = op := rowMatch_inj
    _ ↔ (decode w).op = op := by rw [decode_op]

/-- Settles O5. -/
theorem requestWordLayout : Obligations.RequestWordLayout :=
  fun i => reqWord_toNat i.op i.din

/-- Settles O2, by decoding the eight words. -/
theorem tableWordsDecode : Obligations.TableWordsDecode := by
  unfold Obligations.TableWordsDecode
  decide

/-- Settles O6: the table word becomes the request presented next. -/
theorem presentedTableWordRuns : Obligations.PresentedTableWordRuns :=
  fun nbits w s => ⟨decode (tableWord nbits w), rfl, step_present s (tableWord nbits w)⟩

end Sys2Proof.Machine
end

section
/-! The response word and the value a response carries (30_encoding.md R33). -/

namespace Sys2Proof.Machine

open Sys2Proof

theorem Response.word_ill (r : Response) : r.word.getLsbD 25 = r.ill := by
  rw [Response.word, BitVec.getLsbD_append, if_neg (by decide)]
  cases r.ill <;> cases r.fail <;> rfl

theorem Response.word_fail (r : Response) : r.word.getLsbD 24 = r.fail := by
  rw [Response.word, BitVec.getLsbD_append, if_neg (by decide)]
  cases r.ill <;> cases r.fail <;> rfl

theorem Response.word_dout (r : Response) : r.word.extractLsb' 0 24 = r.dout := by
  ext j hj
  rw [BitVec.getElem_extractLsb', Response.word, BitVec.getLsbD_append, Nat.zero_add, if_pos hj, BitVec.getLsbD_eq_getElem]

/-- Only a success carries a usable value. -/
theorem Response.usable_eq_some_dout_iff {r : Response} : r.usable = some r.dout ↔ r.fail = false ∧ r.ill = false := by
  simp [Response.usable]

theorem Response.usable_eq_none_iff {r : Response} : r.usable = none ↔ r.fail = true ∨ r.ill = true := by
  cases hf : r.fail <;> simp [Response.usable, hf]

/-- Settles O7. -/
theorem responseWordLayout : Obligations.ResponseWordLayout :=
  fun r => ⟨r.word_ill, r.word_fail, r.word_dout, r.usable_eq_some_dout_iff, r.usable_eq_none_iff⟩

end Sys2Proof.Machine
end

section
/-! The bits of `din` that matter, and the ports of 30_encoding.md R42. -/

namespace Sys2Proof.Machine

open Sys2Proof

/-- Settles O15: the reserved select's response is that of `rsv7`, on every operand. -/
theorem reservedSelectAnswersIllegal : Obligations.ReservedSelectAnswersIllegal :=
  ⟨fun x s => exec_eq_answered (.rsv7 x) s, fun x => answers_encode (.rsv7 x)⟩

/-- `DEC` answers what the decoder's own port drives. -/
theorem responseOf_dec (rp rd : V12) : responseOf (.dec rp rd) =
    { dout := zext24 (decoderPort (cat rp rd)).1, fail := (decoderPort (cat rp rd)).2, ill := false } := by
  rw [responseOf, decoderPort]
  cases correctedData (cat rp rd) <;> rfl

/-- Settles O17. -/
theorem dedicatedPortsComputeTheSame : Obligations.DedicatedPortsComputeTheSame := by
  refine ⟨fun x d => answers_encode (.enc x d), fun w => ?_⟩
  have h : Answers (reqWord 6 (cat (high w) (low w))) _ := answers_encode (.dec (high w) (low w))
  rw [responseOf_dec, cat_high_low] at h
  exact h

/-- The single error at bit `k` of a 24-bit word. -/
def bitError (k : Fin 24) : W24 := 1#24 <<< k.val

/-- Three errors of the zero codeword at bits other than `k`. -/
def threeErrorsBeside (k : Fin 24) : W24 := if k.val < 3 then 0x000038 else 0x000007

/-- Three errors are located, and the fourth at bit `k` makes them uncorrectable. -/
theorem errorPattern_threeErrorsBeside (k : Fin 24) :
    (errorPattern (threeErrorsBeside k)).isSome ∧ errorPattern (threeErrorsBeside k ^^^ bitError k) = none := by
  revert k
  decide

/-- Where the locator finds a pattern for one word and none for another, the two have different syndromes, and `ELOC` and `DEC` fail on
the second only. -/
theorem responseOf_ne_of_errorPattern {w w' : W24} (h : (errorPattern w).isSome) (h' : errorPattern w' = none) :
    rspOk (zext24 (syndrome w)) ≠ rspOk (zext24 (syndrome w')) ∧
    rspOption (errorPattern w) ≠ rspOption (errorPattern w') ∧
    rspOption ((correctedData w).map zext24) ≠ rspOption ((correctedData w').map zext24) := by
  obtain ⟨e, he⟩ := Option.isSome_iff_exists.mp h
  refine ⟨fun hs => ?_, ?_, ?_⟩
  · have hsyn : syndrome w = syndrome w' := by
      simpa using congrArg (fun r => low r.dout) hs
    have : errorPattern w = errorPattern w' := congrArg locate hsyn
    simp [he, h'] at this
  · intro hr
    simpa [he, h'] using congrArg Response.fail hr
  · intro hr
    simpa [correctedData, he, h'] using congrArg Response.fail hr

/-- Every 24-bit word is the operand word of some `SYN`, some `ELOC` and some `DEC` request. -/
theorem answers_receivedWord (w : W24) :
    Answers (4#3 ++ w) (rspOk (zext24 (syndrome w))) ∧
    Answers (5#3 ++ w) (rspOption (errorPattern w)) ∧
    Answers (6#3 ++ w) (rspOption ((correctedData w).map zext24)) := by
  rw [← cat_high_low w]
  exact ⟨answers_encode (.syn (high w) (low w)), answers_encode (.eloc (high w) (low w)), answers_encode (.dec (high w) (low w))⟩

/-- Settles O16: the responses of `WT12`, `GTF`, `GTA`, `ENC` and `RSV7` do not mention the ignored bits; three errors beside bit `k`
are told from four by every `W24` operation. -/
theorem ignoredOperandBits : Obligations.IgnoredOperandBits := by
  refine ⟨fun op hop a b v => ?_, fun a b => ?_, fun op hop k => ?_⟩
  · simp only [List.mem_cons, List.not_mem_nil, or_false] at hop
    rcases hop with rfl | rfl | rfl | rfl
    · exact ⟨_, answers_encode (.wt12 a v), answers_encode (.wt12 b v)⟩
    · exact ⟨_, answers_encode (.gtf a v), answers_encode (.gtf b v)⟩
    · exact ⟨_, answers_encode (.gta a v), answers_encode (.gta b v)⟩
    · exact ⟨_, answers_encode (.enc a v), answers_encode (.enc b v)⟩
  · exact ⟨_, answers_encode (.rsv7 a), answers_encode (.rsv7 b)⟩
  · obtain ⟨hsome, hnone⟩ := errorPattern_threeErrorsBeside k
    obtain ⟨hsyn, heloc, hdec⟩ := responseOf_ne_of_errorPattern hsome hnone
    obtain ⟨asyn, aeloc, adec⟩ := answers_receivedWord (threeErrorsBeside k)
    obtain ⟨asyn', aeloc', adec'⟩ := answers_receivedWord (threeErrorsBeside k ^^^ bitError k)
    simp only [List.mem_cons, List.not_mem_nil, or_false] at hop
    rcases hop with rfl | rfl | rfl
    · exact ⟨_, _, _, asyn, asyn', hsyn⟩
    · exact ⟨_, _, _, aeloc, aeloc', heloc⟩
    · exact ⟨_, _, _, adec, adec', hdec⟩

end Sys2Proof.Machine
end

section
/-! When the terms of a script line have values, and what they are (30_encoding.md R40). -/

namespace Sys2Proof.Machine

open Sys2Proof

/-- A literal in range is its zero-extension. -/
theorem evalTerm_literal_of_lt (env : Records) {v : Nat} (h : v < 2 ^ 24) : evalTerm env (.literal v) = some (BitVec.ofNat 24 v) :=
  if_pos h

theorem evalTerm_literal_of_le (env : Records) {v : Nat} (h : 2 ^ 24 ≤ v) : evalTerm env (.literal v) = none :=
  if_neg (Nat.not_lt.mpr h)

/-- A name that some line defined, and no line unsuccessfully, is the `dout` of one of those lines. -/
theorem evalTerm_name_of_success {env : Records} {n : Nat} (hdef : ∃ x ∈ env, x.1 = n)
    (hok : ∀ x ∈ env, x.1 = n → x.2.fail = false ∧ x.2.ill = false) :
    ∃ x ∈ env, x.1 = n ∧ evalTerm env (.name n) = some x.2.dout := by
  rcases evalTerm_name env n with ⟨hnone, -⟩ | ⟨r, hr, heval⟩
  · obtain ⟨x, hx, hxn⟩ := hdef
    exact absurd hxn (hnone x hx)
  · exact ⟨(n, r), hr, rfl, heval.trans (Response.usable_eq_some_dout_iff.mpr (hok (n, r) hr rfl))⟩

/-- A name that no line defined successfully has no value. -/
theorem evalTerm_name_eq_none {env : Records} {n : Nat}
    (hbad : ∀ x ∈ env, x.1 = n → x.2.fail = true ∨ x.2.ill = true) : evalTerm env (.name n) = none := by
  rcases evalTerm_name env n with ⟨-, heval⟩ | ⟨r, hr, heval⟩
  · exact heval
  · exact heval.trans (Response.usable_eq_none_iff.mpr (hbad (n, r) hr rfl))

/-- The first term is XORed into 0. -/
theorem evalOperand_eq_evalOthers (env : Records) (l : Line) : evalOperand env l = evalOthers env 0 (l.first :: l.others) := by
  simp [evalOperand, evalOthers]

/-- `^` is the XOR of the terms' values, from the left. -/
theorem evalOthers_eq_foldl {env : Records} {ts : List Term} {vs : List W24} (h : ts.map (evalTerm env) = vs.map some) (acc : W24) :
    evalOthers env acc ts = some (vs.foldl (· ^^^ ·) acc) := by
  induction ts generalizing vs acc with
  | nil =>
    obtain rfl : vs = [] := by simpa using h.symm
    rfl
  | cons t ts ih =>
    cases vs with
    | nil => simp at h
    | cons v vs =>
      simp only [List.map_cons, List.cons.injEq] at h
      obtain ⟨ht, hts⟩ := h
      rw [evalOthers, ht, Option.bind_some, ih hts, List.foldl_cons]

theorem evalOperand_eq_foldl {env : Records} {l : Line} {vs : List W24}
    (h : (l.first :: l.others).map (evalTerm env) = vs.map some) : evalOperand env l = some (vs.foldl (· ^^^ ·) 0) := by
  rw [evalOperand_eq_evalOthers, evalOthers_eq_foldl h]

theorem evalOthers_eq_none_iff {env : Records} {ts : List Term} (acc : W24) :
    evalOthers env acc ts = none ↔ ∃ t ∈ ts, evalTerm env t = none := by
  induction ts generalizing acc with
  | nil => simp [evalOthers]
  | cons t ts ih => cases ht : evalTerm env t <;> simp [evalOthers, ht, ih]

/-- An operand lacks a value exactly if one of its terms does. -/
theorem evalOperand_eq_none_iff {env : Records} {l : Line} :
    evalOperand env l = none ↔ ∃ t ∈ l.first :: l.others, evalTerm env t = none := by
  rw [evalOperand_eq_evalOthers, evalOthers_eq_none_iff]

end Sys2Proof.Machine
end

section
/-! What a script line and a script do (30_encoding.md R40). -/

namespace Sys2Proof.Machine

open Sys2Proof

/-- A line whose operand has a value is one request to the core, and its response is recorded. -/
theorem runLine_eq_some {l : Line} {env : Records} {v : W24} (h : evalOperand env l = some v) (s : State) :
    runLine l env s = some (recordResponse l.target (responseOf (decode (reqWord l.mnemonic.op v))) env,
      s.answered (reqWord l.mnemonic.op v) (responseOf (decode (reqWord l.mnemonic.op v)))) := by
  rw [runLine_of_operand h, encode_decode]

/-- A line with a term that has no value has no meaning. -/
theorem runLine_eq_none_of_term {l : Line} {env : Records} {t : Term} (ht : t ∈ l.first :: l.others) (h : evalTerm env t = none)
    (s : State) : runLine l env s = none :=
  runLine_of_no_operand (evalOperand_eq_none_iff.mpr ⟨t, ht, h⟩) s

/-- Settles O49. -/
theorem scriptLineIsOneRequest : Obligations.ScriptLineIsOneRequest := by
  refine ⟨fun env v hv => ?_, fun env n r hr huniq hfail hill => ?_, fun env n hdef hok => evalTerm_name_of_success hdef hok,
    fun l env vs h => evalOperand_eq_foldl h, fun l env s v hv => ?_,
    fun l env s v ht hv => runLine_eq_none_of_term ht (evalTerm_literal_of_le env hv) s,
    fun l env s n ht hbad => runLine_eq_none_of_term ht (evalTerm_name_eq_none hbad) s⟩
  case refine_1 =>
    exact ⟨_, evalTerm_literal_of_lt env hv, by rw [BitVec.toNat_ofNat, Nat.mod_eq_of_lt hv]⟩
  case refine_2 =>
    have hok : ∀ x ∈ env, x.1 = n → x.2.fail = false ∧ x.2.ill = false := by
      intro x hx hxn
      rw [huniq x hx hxn]
      exact ⟨hfail, hill⟩
    obtain ⟨x, hx, hxn, heval⟩ := evalTerm_name_of_success ⟨_, hr, rfl⟩ hok
    rw [heval, huniq x hx hxn]
  case refine_3 =>
    refine ⟨_, answers_responseOf_decode _, runLine_eq_some hv s, fun htarget => ?_, fun n htarget => ?_⟩
    · rw [htarget, recordResponse_none]
    · rw [htarget, recordResponse_some]

/-- In a well-formed script a name is used only after a line that defines it. -/
theorem defined_before_use {before after : Script} {l : Line} {n : Nat} (hn : Term.name n ∈ l.first :: l.others)
    {defined : List Nat} (hwf : scriptWellFormed defined (before ++ l :: after) = true) :
    n ∈ defined ∨ ∃ k ∈ before, k.target = some n := by
  induction before generalizing defined with
  | nil =>
    rw [List.nil_append, scriptWellFormed, Bool.and_eq_true, Line.wellFormed, List.all_eq_true] at hwf
    exact .inl (List.contains_iff_mem.mp (hwf.1 _ hn))
  | cons k before ih =>
    rw [List.cons_append, scriptWellFormed, Bool.and_eq_true] at hwf
    rcases ih hwf.2 with hdef | ⟨k', hk', htarget⟩
    · rcases List.mem_append.mp hdef with hk | hdef
      · exact .inr ⟨k, List.mem_cons_self, Option.mem_toList.mp hk⟩
      · exact .inl hdef
    · exact .inr ⟨k', List.mem_cons_of_mem k hk', htarget⟩

/-- The five operations that never fail (60_exceptions.md R66) answer a success. -/
theorem responseOf_eq_rspOk_of_op {i : Instr} (h : i.op ∈ [0#3, 1#3, 2#3, 3#3, 4#3]) : ∃ v, responseOf i = rspOk v := by
  cases i with
  | wt12 | gtf | gta | enc | syn => exact ⟨_, rfl⟩
  | eloc | dec | rsv7 => simp [Instr.op] at h

/-- The mnemonics of those five. -/
abbrev neverFailing : List Mnemonic := [.wt12, .gtf, .gta, .enc, .syn]

theorem op_mem_of_mem_neverFailing {m : Mnemonic} (h : m ∈ neverFailing) : m.op ∈ [0#3, 1#3, 2#3, 3#3, 4#3] := by
  revert m
  decide

/-- Their requests are answered with a success. -/
theorem response_of_neverFailing {m : Mnemonic} (h : m ∈ neverFailing) (v : W24) :
    (responseOf (decode (reqWord m.op v))).fail = false ∧ (responseOf (decode (reqWord m.op v))).ill = false := by
  have hop : (decode (reqWord m.op v)).op ∈ [0#3, 1#3, 2#3, 3#3, 4#3] := by
    rw [decode_op, reqOp_reqWord]
    exact op_mem_of_mem_neverFailing h
  obtain ⟨y, hy⟩ := responseOf_eq_rspOk_of_op hop
  rw [hy]
  exact ⟨rspOk_fail y, rspOk_ill y⟩

/-- Every response recorded under a name that satisfies `used` is a success. -/
def UsedNamesSucceed (used : Nat → Prop) (env : Records) : Prop :=
  ∀ x ∈ env, used x.1 → x.2.fail = false ∧ x.2.ill = false

/-- A line's response is recorded under its name, so the invariant is kept if a line that defines a used name never fails. -/
theorem UsedNamesSucceed.recordResponse {used : Nat → Prop} {env : Records} (henv : UsedNamesSucceed used env) {target : Option Nat}
    {r : Response} (hr : ∀ n, target = some n → used n → r.fail = false ∧ r.ill = false) :
    UsedNamesSucceed used (recordResponse target r env) := by
  cases target with
  | none => exact henv
  | some n =>
    rw [recordResponse_some]
    intro x hx
    rcases List.mem_cons.mp hx with rfl | hx
    · exact hr n rfl
    · exact henv x hx

theorem recordResponse_names (target : Option Nat) (r : Response) (env : Records) :
    (recordResponse target r env).map (·.1) = target.toList ++ env.map (·.1) := by
  cases target <;> rfl

/-- The operand of a well-formed line whose names were all defined with success has a value. -/
theorem evalOperand_of_wellFormed {used : Nat → Prop} {env : Records} {l : Line} (hwf : l.wellFormed (env.map (·.1)) = true)
    (hused : ∀ n, Term.name n ∈ l.first :: l.others → used n) (henv : UsedNamesSucceed used env) :
    ∃ v, evalOperand env l = some v := by
  refine Option.ne_none_iff_exists'.mp fun hnone => ?_
  obtain ⟨t, ht, htnone⟩ := evalOperand_eq_none_iff.mp hnone
  have htwf : t.wellFormed (env.map (·.1)) = true := List.all_eq_true.mp hwf t ht
  cases t with
  | literal value =>
    rw [evalTerm_literal_of_lt env (of_decide_eq_true htwf)] at htnone
    cases htnone
  | name n =>
    have hdef : ∃ x ∈ env, x.1 = n := List.mem_map.mp (List.contains_iff_mem.mp htwf)
    have hok : ∀ x ∈ env, x.1 = n → x.2.fail = false ∧ x.2.ill = false := by
      rintro x hx rfl
      exact henv x hx (hused _ ht)
    obtain ⟨x, -, -, heval⟩ := evalTerm_name_of_success hdef hok
    rw [heval] at htnone
    cases htnone

/-- A well-formed line has a meaning, which adds one exchange with its `op` and records its name, if it has one; the responses under
used names stay successes if a line that defines one never fails. -/
theorem runLine_of_wellFormed {used : Nat → Prop} {env : Records} {l : Line} (s : State) (hwf : l.wellFormed (env.map (·.1)) = true)
    (hused : ∀ n, Term.name n ∈ l.first :: l.others → used n)
    (hdef : ∀ n, l.target = some n → used n → l.mnemonic ∈ neverFailing) (henv : UsedNamesSucceed used env) :
    ∃ env' q r, runLine l env s = some (env', s.answered q r) ∧ reqOp q = l.mnemonic.op ∧
      env'.map (·.1) = l.target.toList ++ env.map (·.1) ∧ UsedNamesSucceed used env' := by
  obtain ⟨v, hv⟩ := evalOperand_of_wellFormed hwf hused henv
  exact ⟨_, _, _, runLine_eq_some hv s, reqOp_reqWord _ v, recordResponse_names _ _ env,
    henv.recordResponse fun n htarget hn => response_of_neverFailing (hdef n htarget hn) v⟩

/-- A well-formed script runs to its end, whatever was recorded before: line by line, by induction on the script. -/
theorem runLines_of_wellFormed {used : Nat → Prop} {p : Script} {env : Records} (s : State)
    (hwf : scriptWellFormed (env.map (·.1)) p = true)
    (hused : ∀ l ∈ p, ∀ n, Term.name n ∈ l.first :: l.others → used n)
    (hdefs : ∀ l ∈ p, ∀ n, l.target = some n → used n → l.mnemonic ∈ neverFailing) (henv : UsedNamesSucceed used env) :
    ∃ (env' : Records) (t : State) (out : List Exchange), runLines p env s = some (env', t) ∧
      t.requests = s.requests ∧ t.exchanges = s.exchanges ++ out ∧
      out.map (fun x => reqOp x.request) = p.map (fun l => l.mnemonic.op) ∧
      env'.map (·.1) = (p.filterMap (·.target)).reverse ++ env.map (·.1) := by
  induction p generalizing env s with
  | nil => exact ⟨env, s, [], rfl, rfl, (List.append_nil _).symm, rfl, rfl⟩
  | cons l ls ih =>
    rw [scriptWellFormed, Bool.and_eq_true] at hwf
    rw [List.forall_mem_cons] at hused hdefs
    obtain ⟨env₁, q, r, hline, hq, hnames₁, henv₁⟩ := runLine_of_wellFormed s hwf.1 hused.1 hdefs.1 henv
    obtain ⟨env₂, t, out, hrest, hreq, hex, hops, hnames⟩ :=
      ih (s.answered q r) (hnames₁ ▸ hwf.2) hused.2 hdefs.2 henv₁
    refine ⟨env₂, t, { request := q, response := r } :: out, ?_, hreq, ?_, ?_, ?_⟩
    · rw [runLines, hline, Option.bind_some, hrest]
    · rw [hex, State.answered_exchanges, List.append_assoc, List.singleton_append]
    · rw [List.map_cons, List.map_cons, hops, hq]
    · rw [hnames, hnames₁]
      cases htarget : l.target <;> simp [htarget]

/-- Settles O50: a use before every definition is ill formed; a well-formed script runs line by line. -/
theorem wellFormedScriptHasMeaning : Obligations.WellFormedScriptHasMeaning := by
  constructor
  · intro before after l s n hn hundefined
    refine if_neg fun hwf => ?_
    rcases defined_before_use hn hwf with hdef | ⟨k, hk, htarget⟩
    · cases hdef
    · exact hundefined k hk htarget
  · intro p s hwf hdefs
    have hused : ∀ l ∈ p, ∀ n, Term.name n ∈ l.first :: l.others → ∃ k ∈ p, Term.name n ∈ k.first :: k.others :=
      fun l hl n hn => ⟨l, hl, hn⟩
    have hempty : UsedNamesSucceed (fun n => ∃ k ∈ p, Term.name n ∈ k.first :: k.others) [] := fun x hx => nomatch hx
    obtain ⟨env, t, out, hrun, hreq, hex, hops, hnames⟩ := runLines_of_wellFormed (env := []) s hwf hused hdefs hempty
    exact ⟨env, t, out, (if_pos hwf).trans hrun, hreq, hex, hops, hnames.trans (List.append_nil _)⟩

end Sys2Proof.Machine
end

section
/-! The weight as a count of the set bits, and the obligation of 40_hamming_weight.md about `WT12`: R43. -/

namespace Sys2Proof.Machine

open Sys2Proof

/-- Counting below `k + 1` counts below `k` and then tests `k`. -/
theorem countP_range_succ (p : Nat → Bool) (k : Nat) :
    (List.range (k + 1)).countP p = (List.range k).countP p + (p k).toNat := by
  rw [List.range_succ, List.countP_append, List.countP_singleton]
  cases p k <;> rfl

/-- The sum of the twelve bits is the number of ones among them. -/
theorem wt12_eq_countP (v : V12) : wt12 v = (List.range 12).countP fun i => v.getLsbD i := by
  simp only [countP_range_succ, List.range_zero, List.countP_nil, Nat.zero_add]
  rfl

/-- The four bits of `dout[3:0]` hold every count below 16. -/
theorem weightOut_eq_ofNat {n : Nat} (h : n < 16) : weightOut n = BitVec.ofNat 24 n := by
  apply BitVec.eq_of_toNat_eq
  rw [weightOut, BitVec.toNat_setWidth, BitVec.toNat_ofNat, BitVec.toNat_ofNat, Nat.mod_eq_of_lt h]

/-- Settles O8: the weight is the count of ones, and a count of at most 12 fits in `dout[3:0]`. -/
theorem wt12AnswersCountOfOnes : Obligations.Wt12AnswersCountOfOnes := by
  intro x v s
  have hfits : wt12 v < 16 := Nat.lt_of_le_of_lt (wt12_le v) (by decide)
  rw [exec_eq_answered, responseOf, weightOut_eq_ofNat hfits, wt12_eq_countP, rspOk]

end Sys2Proof.Machine
end

section
/-! The transform bit by bit, what it reads out of its matrix, and the obligations of 41_generator_transform.md about `GTF` and `GTA`:
R45, R46, R47. -/

namespace Sys2Proof.Machine

open Sys2Proof

/-- One more selected row that is 1 in the bit counted turns the parity over. -/
theorem parity_add_one_if (n : Nat) (b : Bool) :
    decide ((n + if b = true then 1 else 0) % 2 = 1) = (b ^^ decide (n % 2 = 1)) := by
  cases b
  · simp
  · rcases Nat.mod_two_eq_zero_or_one n with hn | hn <;> simp [Nat.add_mod, hn]

/-- One round of the transform's loop, bit by bit. -/
theorem xorIf_getElem (b : Bool) (acc row : V12) (j : Fin 12) :
    (if b then acc ^^^ row else acc)[j] = (acc[j] ^^ (b && row[j])) := by
  cases b <;> simp

/-- A bit of the transform's loop: each selected row whose bit `j` is 1 flips bit `j` of the start value. -/
theorem transformFold_getElem (M : Matrix12) (x : V12) (j : Fin 12) (is : List (Fin 12)) (acc : V12) :
    (is.foldl (fun acc i => if x[i] then acc ^^^ M[i] else acc) acc)[j] =
      (acc[j] ^^ decide ((is.countP fun i => x[i] && M[i][j]) % 2 = 1)) := by
  induction is generalizing acc with
  | nil => simp
  | cons i is ih => rw [List.foldl_cons, ih, List.countP_cons, xorIf_getElem, parity_add_one_if, Bool.xor_assoc]

/-- The transform is the XOR of the rows that the ones of the operand select. -/
theorem gt_isRowXor (M : Matrix12) (x : V12) : IsRowXor M x (gt M x) := fun j => by
  rw [gt, transformFold_getElem, Fin.getElem_fin, BitVec.getElem_zero, Bool.false_xor]

/-- There is only one such vector. -/
theorem eq_gt_of_isRowXor {M : Matrix12} {x y : V12} (h : IsRowXor M x y) : y = gt M x := by
  ext j hj
  exact (h ⟨j, hj⟩).trans (gt_isRowXor M x ⟨j, hj⟩).symm

/-- Each index is searched once. -/
theorem countP_indices12_eq (i : Fin 12) : (indices12.countP fun k => decide (k = i)) = 1 := by revert i; decide

/-- A one-hot operand reads out the row it selects. -/
theorem gt_onehot12 (M : Matrix12) (i : Fin 12) : gt M (onehot12 i) = M[i] := by
  refine (eq_gt_of_isRowXor fun j => ?_).symm
  have hselect : ∀ k : Fin 12, ((onehot12 i)[k] && M[k][j]) = (decide (k = i) && M[i][j]) := by
    intro k
    rw [Fin.getElem_fin, onehot12_getElem]
    by_cases hk : k = i
    · simp [hk]
    · simp [hk, Fin.val_inj]
  simp only [hselect]
  cases M[i][j] <;> simp [countP_indices12_eq]

/-- No row is selected by 0. -/
@[simp] theorem gt_zero (M : Matrix12) : gt M 0#12 = 0#12 := by
  refine (eq_gt_of_isRowXor fun j => ?_).symm
  simp

/-- All twelve forward rows XOR to all ones (10_state.md R20 item 4). -/
theorem gt_fwd_allOnes : gt fwd 0xFFF#12 = 0xFFF#12 := by decide

/-- All twelve alternate rows XOR to all ones (10_state.md R20 item 4). -/
theorem gt_alt_allOnes : gt alt 0xFFF#12 = 0xFFF#12 := by decide

/-- `GTF` answers the forward transform of its operand. -/
theorem exec_gtf (x v : V12) (s : State) :
    exec (.gtf x v) s = .next (s.answered (encode (.gtf x v)) (rspOk (zext24 (gt fwd v)))) :=
  exec_eq_answered (.gtf x v) s

/-- `GTA` answers the alternate transform of its operand. -/
theorem exec_gta (x v : V12) (s : State) :
    exec (.gta x v) s = .next (s.answered (encode (.gta x v)) (rspOk (zext24 (gt alt v)))) :=
  exec_eq_answered (.gta x v) s

/-- Settles O9: the transform is the row XOR, a one-hot operand selects one row of `FWD`, and the twelve rows XOR to all ones. -/
theorem gtfAnswersForwardRowXor : Obligations.GtfAnswersForwardRowXor := by
  refine ⟨fun x v s => ⟨gt fwd v, gt_isRowXor fwd v, exec_gtf x v s⟩, fun x s i => ?_, fun x s => ⟨?_, ?_⟩⟩
  · rw [exec_gtf, gt_onehot12]
    fin_cases i <;> rfl
  · rw [exec_gtf, BitVec.ofNat_eq_ofNat, gt_zero]
    rfl
  · rw [exec_gtf, BitVec.ofNat_eq_ofNat, gt_fwd_allOnes]
    rfl

/-- Settles O10: the transform is the row XOR, a one-hot operand selects one row of `ALT`, and the twelve rows XOR to all ones. -/
theorem gtaAnswersAlternateRowXor : Obligations.GtaAnswersAlternateRowXor := by
  refine ⟨fun x v s => ⟨gt alt v, gt_isRowXor alt v, exec_gta x v s⟩, fun x s i => ?_, fun x s => ⟨?_, ?_⟩⟩
  · rw [exec_gta, gt_onehot12]
    fin_cases i <;> rfl
  · rw [exec_gta, BitVec.ofNat_eq_ofNat, gt_zero]
    rfl
  · rw [exec_gta, BitVec.ofNat_eq_ofNat, gt_alt_allOnes]
    rfl

end Sys2Proof.Machine
end

section
/-! The codeword of a one-hot and of a constant data word, and the obligations of 42_encoder.md about `ENC` and its fixed points: R51,
R52. -/

namespace Sys2Proof.Machine

open Sys2Proof

/-- `ENC` answers the codeword of its data word. -/
theorem exec_enc (x d : V12) (s : State) :
    exec (.enc x d) s = .next (s.answered (encode (.enc x d)) (rspOk (codeword d))) :=
  exec_eq_answered (.enc x d) s

/-- The codeword of one data bit carries that bit's row as its parity. -/
theorem codeword_onehot12 (i : Fin 12) : codeword (onehot12 i) = cat fwd[i] (onehot12 i) := by
  rw [codeword, gt_onehot12]

/-- No row is selected by 0, so its codeword is 0 (42_encoder.md R52). -/
theorem codeword_zero : codeword 0#12 = 0#24 := by
  rw [codeword, gt_zero]
  rfl

/-- All ones are a fixed point of the forward transform, so their codeword is all ones (42_encoder.md R52). -/
theorem codeword_allOnes : codeword 0xFFF#12 = 0xFFFFFF#24 := by
  rw [codeword, gt_fwd_allOnes]
  rfl

/-- Settles O11: the parity half is the transform, which is the row XOR, and a one-hot data word selects one row of `FWD`. -/
theorem encAnswersSystematicCodeword : Obligations.EncAnswersSystematicCodeword := by
  refine ⟨fun x d s => ⟨gt fwd d, gt_isRowXor fwd d, exec_enc x d s⟩, fun x s i => ?_⟩
  rw [exec_enc, codeword_onehot12]
  rfl

/-- Settles O26: the two words are `ENC` requests for the data words 0 and all ones. -/
theorem encoderFixedPoints : Obligations.EncoderFixedPoints := by
  refine ⟨?_, ?_, by decide⟩
  · have hzero : Answers _ (rspOk (codeword 0#12)) := answers_encode (.enc 0#12 0#12)
    rwa [codeword_zero] at hzero
  · have hones : Answers _ (rspOk (codeword 0xFFF#12)) := answers_encode (.enc 0#12 0xFFF#12)
    rwa [codeword_allOnes] at hones

end Sys2Proof.Machine
end

section
/-! What the search of each locator step and the locator as a whole answer, and the obligations of 43_syndrome_error_locator.md about
`SYN` and `ELOC`: R54, R55. -/

namespace Sys2Proof.Machine

open Sys2Proof

/-- `SYN` answers the syndrome of its operand. -/
theorem exec_syn (rp rd : V12) (s : State) :
    exec (.syn rp rd) s = .next (s.answered (encode (.syn rp rd)) (rspOk (zext24 (syndrome (cat rp rd))))) :=
  exec_eq_answered (.syn rp rd) s

@[simp] theorem syndrome_cat (rp rd : V12) : syndrome (cat rp rd) = rp ^^^ gt fwd rd := by
  rw [syndrome, receivedParity_cat, receivedData_cat]

/-- Settles O12: the parity recomputed from the data is the row XOR; it is 0 for no data bit and one row of `FWD` for one. -/
theorem synAnswersParityDiscrepancy : Obligations.SynAnswersParityDiscrepancy := by
  refine ⟨fun rp rd s => ⟨gt fwd rd, gt_isRowXor fwd rd, ?_⟩, fun rp s => ?_, fun s i => ?_⟩
  · rw [exec_syn, syndrome_cat]
    rfl
  · rw [exec_syn, syndrome_cat, BitVec.ofNat_eq_ofNat, gt_zero, BitVec.xor_zero]
    rfl
  · rw [exec_syn, syndrome_cat, BitVec.ofNat_eq_ofNat, gt_onehot12, BitVec.zero_xor]
    rfl

/-- `ELOC` answers what the locator finds for the syndrome of its operand. -/
theorem exec_eloc (rp rd : V12) (s : State) :
    exec (.eloc rp rd) s = .next (s.answered (encode (.eloc rp rd)) (rspOption (locate (rp ^^^ gt fwd rd)))) := by
  rw [exec_eq_answered, responseOf, errorPattern, syndrome_cat]

/-- A search in rising order answers at the least index that matches. -/
theorem findSome?_indices12_of_least {α : Type} {f : Fin 12 → Option α} {i : Fin 12} {a : α} (hi : f i = some a)
    (hleast : ∀ j < i, f j = none) : indices12.findSome? f = some a := by
  obtain ⟨before, after, hsplit⟩ := List.append_of_mem (mem_indices12 i)
  have hbelow : ∀ j ∈ before, j < i := by
    have hincreasing := indices12_increasing
    rw [hsplit, List.pairwise_append] at hincreasing
    exact fun j hj => hincreasing.2.2 j hj i List.mem_cons_self
  exact List.findSome?_eq_some_iff.mpr ⟨before, i, after, hsplit, hi, fun j hj => hleast j (hbelow j hj)⟩

theorem searchDataBit_of_least {s : V12} {i : Fin 12} (hi : wt12 (dataCandidate s i) ≤ thSearch)
    (hleast : ∀ j < i, ¬ wt12 (dataCandidate s j) ≤ thSearch) :
    searchDataBit s = some (cat (dataCandidate s i) (onehot12 i)) :=
  findSome?_indices12_of_least (if_pos hi) fun j hj => if_neg (hleast j hj)

theorem searchParityBit_of_least {v : V12} {i : Fin 12} (hi : wt12 (parityCandidate v i) ≤ thSearch)
    (hleast : ∀ j < i, ¬ wt12 (parityCandidate v j) ≤ thSearch) :
    searchParityBit v = some (cat (onehot12 i) (parityCandidate v i)) :=
  findSome?_indices12_of_least (if_pos hi) fun j hj => if_neg (hleast j hj)

theorem searchDataBit_eq_none {s : V12} (h : ∀ i, ¬ wt12 (dataCandidate s i) ≤ thSearch) : searchDataBit s = none :=
  List.findSome?_eq_none_iff.mpr fun i _ => if_neg (h i)

theorem searchParityBit_eq_none {v : V12} (h : ∀ i, ¬ wt12 (parityCandidate v i) ≤ thSearch) : searchParityBit v = none :=
  List.findSome?_eq_none_iff.mpr fun i _ => if_neg (h i)

/-- Step 2 answers first. -/
theorem locate_of_light_syndrome {s : V12} (h : wt12 s ≤ thDirect) : locate s = some (cat s 0#12) := if_pos h

/-- Step 2 does not answer, step 3 does. -/
theorem locate_of_searchDataBit {s : V12} {e : W24} (h2 : ¬ wt12 s ≤ thDirect) (h3 : searchDataBit s = some e) :
    locate s = some e := by
  rw [locate, if_neg h2, h3]

/-- Past step 3, the locator works on `GTA(s)`. -/
theorem locate_of_searchDataBit_eq_none {s : V12} (h2 : ¬ wt12 s ≤ thDirect) (h3 : searchDataBit s = none) :
    locate s = if wt12 (gt alt s) ≤ thDirect then some (cat 0#12 (gt alt s)) else searchParityBit (gt alt s) := by
  rw [locate, if_neg h2, h3]

/-- Steps 2 to 4 do not answer: step 5 decides. -/
theorem locate_eq_searchParityBit {s : V12} (h2 : ¬ wt12 s ≤ thDirect) (h3 : ∀ i, ¬ wt12 (dataCandidate s i) ≤ thSearch)
    (h4 : ¬ wt12 (gt alt s) ≤ thDirect) : locate s = searchParityBit (gt alt s) := by
  rw [locate_of_searchDataBit_eq_none h2 (searchDataBit_eq_none h3), if_neg h4]

/-- Settles O13: `exec_eloc` gives a response in every state; each further clause is one way through the locator's steps. -/
theorem elocAnswersBySearchOrder : Obligations.ElocAnswersBySearchOrder := by
  intro rp rd s
  have answers_of_locate {o : Option W24} (h : locate (rp ^^^ gt fwd rd) = o) :
      exec (.eloc rp rd) s = .next (s.answered (encode (.eloc rp rd)) (rspOption o)) := h ▸ exec_eloc rp rd s
  refine ⟨⟨_, exec_eloc rp rd s⟩, fun h2 => ?_, fun i h2 hi hleast => ?_, fun h2 h3 h4 => ?_, fun i h2 h3 h4 hi hleast => ?_, ?_⟩
  · exact answers_of_locate (locate_of_light_syndrome h2)
  · exact answers_of_locate (locate_of_searchDataBit h2 (searchDataBit_of_least hi hleast))
  · exact answers_of_locate ((locate_of_searchDataBit_eq_none h2 (searchDataBit_eq_none h3)).trans (if_pos h4))
  · exact answers_of_locate ((locate_eq_searchParityBit h2 h3 h4).trans (searchParityBit_of_least hi hleast))
  · rintro ⟨h2, h3, h4, h5⟩
    exact answers_of_locate ((locate_eq_searchParityBit h2 h3 h4).trans (searchParityBit_eq_none h5))

end Sys2Proof.Machine
end

section
/-! The code behind the locator: the transforms are linear and undo each other, and no nonzero codeword is lighter than 8, so no two
words of weight at most 3 have the same syndrome (42_encoder.md R53 item 3, 43_syndrome_error_locator.md R57 item 4). -/

namespace Sys2Proof.Machine

open Sys2Proof

/-- One round of the transform's loop is linear: a row selected by both operands cancels. -/
theorem xorIf_xor (b b' : Bool) (u v row : V12) :
    (if b ^^ b' then u ^^^ v ^^^ row else u ^^^ v) = (if b then u ^^^ row else u) ^^^ (if b' then v ^^^ row else v) := by
  cases b <;> cases b'
  · rfl
  · exact BitVec.xor_assoc u v row
  · show u ^^^ v ^^^ row = u ^^^ row ^^^ v
    ac_rfl
  · show u ^^^ v = u ^^^ row ^^^ (v ^^^ row)
    calc u ^^^ v = u ^^^ v ^^^ (row ^^^ row) := by rw [BitVec.xor_self, BitVec.xor_zero]
      _ = u ^^^ row ^^^ (v ^^^ row) := by ac_rfl

/-- The transform's loop is linear. -/
theorem transformFold_xor (M : Matrix12) (x y : V12) (is : List (Fin 12)) (a b : V12) :
    is.foldl (fun acc i => if (x ^^^ y)[i] then acc ^^^ M[i] else acc) (a ^^^ b) =
      is.foldl (fun acc i => if x[i] then acc ^^^ M[i] else acc) a ^^^
      is.foldl (fun acc i => if y[i] then acc ^^^ M[i] else acc) b := by
  induction is generalizing a b with
  | nil => rfl
  | cons i is ih =>
    rw [List.foldl_cons, List.foldl_cons, List.foldl_cons, Fin.getElem_fin, BitVec.getElem_xor, xorIf_xor]
    exact ih _ _

theorem gt_xor (M : Matrix12) (x y : V12) : gt M (x ^^^ y) = gt M x ^^^ gt M y :=
  transformFold_xor M x y indices12 0#12 0#12

theorem syndrome_eq (w : W24) : syndrome w = high w ^^^ gt fwd (low w) := rfl

theorem syndrome_xor (a b : W24) : syndrome (a ^^^ b) = syndrome a ^^^ syndrome b := by
  rw [syndrome_eq, syndrome_eq, syndrome_eq, high_xor, low_xor, gt_xor]
  ac_rfl

@[simp] theorem wt12_onehot12 (i : Fin 12) : wt12 (onehot12 i) = 1 := by revert i; decide

@[simp] theorem wt12_zero : wt12 0#12 = 0 := by decide

theorem wt24_cat (a b : V12) : wt24 (cat a b) = wt12 a + wt12 b := by
  simp only [wt24, countBits, wt12, ← BitVec.getLsbD_eq_getElem, cat_getLsbD, Nat.reduceLT, Nat.reduceSub, if_true, if_false]
  omega

theorem countBits_xor_le (a b : W24) (k : Nat) : countBits (a ^^^ b) k ≤ countBits a k + countBits b k := by
  induction k with
  | zero => rfl
  | succ k ih =>
    have hbit : ((a ^^^ b).getLsbD k).toNat ≤ (a.getLsbD k).toNat + (b.getLsbD k).toNat := by
      rw [BitVec.getLsbD_xor]
      cases a.getLsbD k <;> cases b.getLsbD k <;> decide
    simp only [countBits]
    omega

theorem wt24_xor_le (a b : W24) : wt24 (a ^^^ b) ≤ wt24 a + wt24 b := countBits_xor_le a b 24

/-- The forward transform undoes the alternate one, evaluated on the tables (41_generator_transform.md R49). -/
theorem forwardNat_alternateNat_all : allBelow (fun n => forwardNat (alternateNat n) == n) 4096 = true := by
  decide +kernel

theorem gt_fwd_gt_alt (v : V12) : gt fwd (gt alt v) = v := by
  apply BitVec.eq_of_toNat_eq
  rw [gt_fwd_toNat, gt_alt_toNat]
  exact eq_of_beq (forall_v12_of_allBelow forwardNat_alternateNat_all v)

/-- The weights of all codewords but 0, evaluated on the tables (42_encoder.md R53 item 3). -/
theorem codewordWeight_all :
    allBelow (fun n => n == 0 || decide (minDistance ≤ weightNat (forwardNat n) + weightNat n)) 4096 = true := by
  decide +kernel

theorem wt24_codeword {d : V12} (h : d ≠ 0#12) : minDistance ≤ wt24 (codeword d) := by
  have hcheck := forall_v12_of_allBelow codewordWeight_all d
  rw [Bool.or_eq_true, beq_iff_eq, decide_eq_true_eq] at hcheck
  rw [codeword, wt24_cat, wt12_eq_weightNat, wt12_eq_weightNat, gt_fwd_toNat]
  exact hcheck.resolve_left fun h0 => h (BitVec.eq_of_toNat_eq h0)

theorem eq_codeword_of_syndrome_eq_zero {w : W24} (h : syndrome w = 0#12) : w = codeword (low w) := by
  have hparity : high w = gt fwd (low w) := BitVec.xor_eq_zero_iff.mp h
  rw [codeword, ← hparity, cat_high_low]

/-- Two words of weight at most 3 with one syndrome differ by a codeword of weight at most 6, which is 0. -/
theorem eq_of_syndrome_eq {e e' : W24} (he : wt24 e ≤ maxErrors) (he' : wt24 e' ≤ maxErrors) (h : syndrome e = syndrome e') :
    e = e' := by
  have hcode : e ^^^ e' = codeword (low (e ^^^ e')) :=
    eq_codeword_of_syndrome_eq_zero (by rw [syndrome_xor, h, BitVec.xor_self])
  have hlight : wt24 (codeword (low (e ^^^ e'))) ≤ maxErrors + maxErrors :=
    hcode ▸ (wt24_xor_le e e').trans (Nat.add_le_add he he')
  by_cases hzero : low (e ^^^ e') = 0#12
  · rw [hzero, codeword_zero] at hcode
    exact BitVec.xor_eq_zero_iff.mp hcode
  · exact absurd ((wt24_codeword hzero).trans hlight) (by decide)

end Sys2Proof.Machine
end

section
/-! The locator built in parallel, and the obligation of 43_syndrome_error_locator.md about it: R59. Its priority is the order of the
steps, and any other selects the same pattern, since all conditions that hold return one (R57 item 4). -/

namespace Sys2Proof.Machine

open Sys2Proof

/-- What one condition of the parallel locator contributes: its pattern if it holds. -/
def conditionAnswer (c : Bool × W24) : Option W24 := if c.1 then some c.2 else none

theorem conditionAnswer_decide (p : Prop) [Decidable p] (e : W24) :
    conditionAnswer (decide p, e) = if p then some e else none := by
  by_cases h : p <;> simp [conditionAnswer, h]

theorem matchingPatterns_eq_filterMap (s : V12) : matchingPatterns s = (locatorCandidates s).filterMap conditionAnswer := by
  rw [matchingPatterns]
  induction locatorCandidates s with
  | nil => rfl
  | cons c cs ih =>
    obtain ⟨b, e⟩ := c
    cases b
    · exact ih
    · exact congrArg (e :: ·) ih

/-- The first of the conditions of step 3, and of those of step 5, that holds is where the step's search ends. -/
theorem findSome?_conditions (p : Fin 12 → Prop) [DecidablePred p] (pattern : Fin 12 → W24) :
    (indices12.map fun i => (decide (p i), pattern i)).findSome? conditionAnswer =
      indices12.findSome? fun i => if p i then some (pattern i) else none := by
  rw [List.findSome?_map]
  exact congrArg (indices12.findSome? ·) (funext fun i => conditionAnswer_decide (p i) (pattern i))

/-- Selecting by priority takes the steps in order. -/
theorem locateParallel_eq_locate (s : V12) : locateParallel s = locate s := by
  rw [locateParallel, matchingPatterns_eq_filterMap, List.head?_filterMap, locatorCandidates, List.cons_append, List.findSome?_cons,
    conditionAnswer_decide, List.findSome?_append, findSome?_conditions, List.findSome?_cons, conditionAnswer_decide,
    findSome?_conditions]
  by_cases h2 : wt12 s ≤ thDirect
  · rw [if_pos h2, locate_of_light_syndrome h2]
  · rw [if_neg h2]
    show (searchDataBit s).or _ = _
    cases h3 : searchDataBit s with
    | some e => exact (locate_of_searchDataBit h2 h3).symm
    | none =>
      rw [locate_of_searchDataBit_eq_none h2 h3, Option.none_or]
      by_cases h4 : wt12 (gt alt s) ≤ thDirect
      · rw [if_pos h4, if_pos h4]
      · rw [if_neg h4, if_neg h4]
        rfl

/-- The conditions that can hold, with their patterns. -/
theorem mem_matchingPatterns {s : V12} {e : W24} : e ∈ matchingPatterns s ↔
    (wt12 s ≤ thDirect ∧ e = cat s 0#12) ∨
    (∃ i, wt12 (dataCandidate s i) ≤ thSearch ∧ e = cat (dataCandidate s i) (onehot12 i)) ∨
    (wt12 (gt alt s) ≤ thDirect ∧ e = cat 0#12 (gt alt s)) ∨
    (∃ i, wt12 (parityCandidate (gt alt s) i) ≤ thSearch ∧ e = cat (onehot12 i) (parityCandidate (gt alt s) i)) := by
  simp [matchingPatterns, locatorCandidates, mem_indices12, @eq_comm _ e]

/-- Every condition that holds returns a word of weight at most 3 with the syndrome searched for (R57 item 2). -/
theorem syndrome_and_weight_of_mem_matchingPatterns {s : V12} {e : W24} (he : e ∈ matchingPatterns s) :
    syndrome e = s ∧ wt24 e ≤ maxErrors := by
  rcases mem_matchingPatterns.mp he with ⟨h, rfl⟩ | ⟨i, h, rfl⟩ | ⟨h, rfl⟩ | ⟨i, h, rfl⟩ <;> rw [syndrome_cat, wt24_cat]
  · rw [gt_zero, BitVec.xor_zero, wt12_zero]
    exact ⟨rfl, h⟩
  · rw [gt_onehot12, dataCandidate, BitVec.xor_assoc, BitVec.xor_self, BitVec.xor_zero, wt12_onehot12]
    exact ⟨rfl, Nat.succ_le_succ h⟩
  · rw [gt_fwd_gt_alt, BitVec.zero_xor, wt12_zero, Nat.zero_add]
    exact ⟨rfl, h⟩
  · have hrow : gt fwd (parityCandidate (gt alt s) i) = s ^^^ onehot12 i := by
      rw [parityCandidate, gt_xor, gt_fwd_gt_alt, ← gt_onehot12 alt, gt_fwd_gt_alt]
    rw [hrow, BitVec.xor_comm, BitVec.xor_assoc, BitVec.xor_self, BitVec.xor_zero, wt12_onehot12, Nat.add_comm]
    exact ⟨rfl, Nat.succ_le_succ h⟩

theorem eq_of_mem_matchingPatterns {s : V12} {e e' : W24} (he : e ∈ matchingPatterns s) (he' : e' ∈ matchingPatterns s) : e = e' := by
  obtain ⟨hsyn, hlight⟩ := syndrome_and_weight_of_mem_matchingPatterns he
  obtain ⟨hsyn', hlight'⟩ := syndrome_and_weight_of_mem_matchingPatterns he'
  exact eq_of_syndrome_eq hlight hlight' (hsyn.trans hsyn'.symm)

/-- A list of equal elements has one end like the other. -/
theorem getLast?_eq_head? {α : Type} {l : List α} (h : ∀ a ∈ l, ∀ b ∈ l, a = b) : l.getLast? = l.head? := by
  cases l with
  | nil => rfl
  | cons a as =>
    rw [List.getLast?_eq_some_getLast (List.cons_ne_nil a as), List.head?_cons]
    exact congrArg some (h _ (List.getLast_mem _) a List.mem_cons_self)

/-- Settles O31: the first pattern is the sequential search's by the order of the steps, the last because all are equal. -/
theorem parallelLocatorIsSequential : Obligations.ParallelLocatorIsSequential := by
  refine ⟨fun s => ⟨rfl, locateParallel_eq_locate s⟩, fun s => ?_⟩
  calc (matchingPatterns s).getLast?
    _ = (matchingPatterns s).head? := getLast?_eq_head? fun e he e' he' => eq_of_mem_matchingPatterns he he'
    _ = locate s := locateParallel_eq_locate s

end Sys2Proof.Machine
end

section
/-! `DEC` answers what the locator's pattern makes of the received data, and the obligation of 44_decoder.md about it: R61. -/

namespace Sys2Proof.Machine

open Sys2Proof

/-- `ELOC` and `DEC` both fail on a received word that has no located pattern. -/
theorem responseOf_eloc_dec_of_errorPattern_eq_none {rp rd : V12} (h : errorPattern (cat rp rd) = none) :
    responseOf (.eloc rp rd) = rspUncorrectable ∧ responseOf (.dec rp rd) = rspUncorrectable := by
  simp [responseOf, correctedData, h]

/-- Where `ELOC` answers a located pattern, `DEC` answers the received data XOR the pattern's low half. -/
theorem responseOf_eloc_dec_of_errorPattern_eq_some {rp rd : V12} {e : W24} (h : errorPattern (cat rp rd) = some e) :
    responseOf (.eloc rp rd) = rspOk e ∧ responseOf (.dec rp rd) = rspOk (zext24 (rd ^^^ low e)) := by
  simp [responseOf, correctedData, h]

/-- Settles O14: the two operations search the same word, and both succeed or both fail as the locator does. -/
theorem decAnswersFromLocator : Obligations.DecAnswersFromLocator := by
  intro rp rd s
  refine ⟨responseOf (.eloc rp rd), exec_eq_answered (.eloc rp rd) s, ?_⟩
  rw [exec_eq_answered (.dec rp rd)]
  cases hpattern : errorPattern (cat rp rd) with
  | none =>
    obtain ⟨heloc, hdec⟩ := responseOf_eloc_dec_of_errorPattern_eq_none hpattern
    rw [heloc, hdec]
    exact ⟨fun _ => rfl, (nomatch ·)⟩
  | some e =>
    obtain ⟨heloc, hdec⟩ := responseOf_eloc_dec_of_errorPattern_eq_some hpattern
    rw [heloc, hdec]
    exact ⟨(nomatch ·), fun _ => rfl⟩

end Sys2Proof.Machine
end

section
/-! When the locator finds no pattern, and for how many syndromes (60_exceptions.md R64). -/

namespace Sys2Proof.Machine

open Sys2Proof

/-- The locator reports Uncorrectable exactly when none of its conditions holds. -/
theorem locate_eq_none_iff (s : V12) : locate s = none ↔ NoCandidate s := by
  rw [← locateParallel_eq_locate, locateParallel, List.head?_eq_none_iff, List.eq_nil_iff_forall_not_mem]
  constructor
  · intro hempty
    exact ⟨fun h2 => hempty _ (mem_matchingPatterns.mpr (.inl ⟨h2, rfl⟩)),
      fun i h3 => hempty _ (mem_matchingPatterns.mpr (.inr (.inl ⟨i, h3, rfl⟩))),
      fun h4 => hempty _ (mem_matchingPatterns.mpr (.inr (.inr (.inl ⟨h4, rfl⟩)))),
      fun i h5 => hempty _ (mem_matchingPatterns.mpr (.inr (.inr (.inr ⟨i, h5, rfl⟩))))⟩
  · rintro ⟨h2, h3, h4, h5⟩ e he
    rcases mem_matchingPatterns.mp he with ⟨h, -⟩ | ⟨i, h, -⟩ | ⟨h, -⟩ | ⟨i, h, -⟩
    · exact h2 h
    · exact h3 i h
    · exact h4 h
    · exact h5 i h

/-- The weight of a 12-bit number in three operations, for the count below: four copies 15 bits apart, every fourth bit kept, so that
each bit of `n` is kept once; modulo 15 the kept bits add up. -/
def weightFast (n : Nat) : Nat := (n * 0x200040008001 &&& 0x111111111111111) % 15

theorem weightFast_all : allBelow (fun n => weightNat n == weightFast n) 4096 = true := by
  decide +kernel

theorem wt12_eq_weightFast (v : V12) : wt12 v = weightFast v.toNat := by
  rw [wt12_eq_weightNat]
  exact eq_of_beq (forall_v12_of_allBelow weightFast_all v)

/-- On numbers: every row of the matrix is farther than `thSearch` from `n`. -/
def farFromRows (M : Matrix12) (n : Nat) : Bool := indices12.all fun i => thSearch.blt (weightFast (n ^^^ M[i].toNat))

theorem farFromRows_toNat (M : Matrix12) (v : V12) :
    farFromRows M v.toNat = true ↔ ∀ i : Fin 12, ¬ wt12 (v ^^^ M[i]) ≤ thSearch := by
  simp [farFromRows, mem_indices12, wt12_eq_weightFast]

/-- `NoCandidate` on numbers. -/
def noCandidateNat (n : Nat) : Bool :=
  thDirect.blt (weightFast n) && (farFromRows fwd n && (thDirect.blt (weightFast (alternateNat n)) && farFromRows alt (alternateNat n)))

theorem noCandidateNat_toNat (s : V12) : noCandidateNat s.toNat = true ↔ NoCandidate s := by
  rw [noCandidateNat, ← gt_alt_toNat, ← wt12_eq_weightFast, ← wt12_eq_weightFast, Bool.and_eq_true, Bool.and_eq_true,
    Bool.and_eq_true, farFromRows_toNat, farFromRows_toNat, Nat.blt_eq, Nat.blt_eq, ← Nat.not_le, ← Nat.not_le]
  rfl

/-- The count of R64, evaluated on the tables. -/
theorem countP_noCandidateNat : (List.range 4096).countP noCandidateNat = 1771 := by
  decide +kernel

theorem countV12_noCandidate : countV12 (fun s => decide (NoCandidate s)) = 1771 := by
  rw [← countP_noCandidateNat, countV12]
  refine List.countP_congr fun k hk => ?_
  have hk : (BitVec.ofNat 12 k).toNat = k := Nat.mod_eq_of_lt (List.mem_range.mp hk)
  rw [decide_eq_true_eq, ← noCandidateNat_toNat, hk]

end Sys2Proof.Machine
end

section
/-! The two conditions a response can report, by operation, and the obligations of 60_exceptions.md about them: R64, R65, R66. -/

namespace Sys2Proof.Machine

open Sys2Proof

/-- Uncorrectable is the answer of `ELOC` and `DEC` to an operand without a located pattern. -/
theorem responseOf_fail_iff (i : Instr) :
    (responseOf i).fail = true ↔ (i.op = 5#3 ∨ i.op = 6#3) ∧ errorPattern i.din = none := by
  cases i with
  | wt12 | gtf | gta | enc | syn | rsv7 => simp [responseOf, Instr.op]
  | eloc | dec => simp [responseOf, Instr.op, Instr.din, correctedData]

/-- IllegalOp is the answer of the reserved select. -/
theorem responseOf_ill_iff (i : Instr) : (responseOf i).ill = true ↔ i.op = 7#3 := by
  cases i <;> simp [responseOf, Instr.op]

theorem rspOption_cases (o : Option W24) : (∃ v, rspOption o = rspOk v) ∨ rspOption o = rspUncorrectable := by
  cases o with
  | none => exact .inr rfl
  | some v => exact .inl ⟨v, rfl⟩

/-- A response is a success with its value, or one of the two conditions with the filler. -/
theorem responseOf_cases (i : Instr) :
    (∃ v, responseOf i = rspOk v) ∨ responseOf i = rspUncorrectable ∨ responseOf i = rspIllegal := by
  cases i with
  | wt12 | gtf | gta | enc | syn => exact .inl ⟨_, rfl⟩
  | eloc | dec => exact (rspOption_cases _).imp_right .inl
  | rsv7 => exact .inr (.inr rfl)

theorem responseOf_eq_rspUncorrectable {i : Instr} (h : (responseOf i).fail = true) : responseOf i = rspUncorrectable := by
  rcases responseOf_cases i with ⟨v, hr⟩ | hr | hr
  · simp [hr] at h
  · exact hr
  · simp [hr] at h

theorem responseOf_eq_rspIllegal {i : Instr} (h : (responseOf i).ill = true) : responseOf i = rspIllegal := by
  rcases responseOf_cases i with ⟨v, hr⟩ | hr | hr
  · simp [hr] at h
  · simp [hr] at h
  · exact hr

/-- Settles O18: the response fails where the locator finds no pattern for the syndrome of `din`; the count is evaluated. -/
theorem uncorrectableExactCause : Obligations.UncorrectableExactCause := by
  refine ⟨fun w => ⟨responseOf (decode w), answers_responseOf_decode w, ?_, fun hfail => ?_⟩, countV12_noCandidate⟩
  · rw [responseOf_fail_iff, decode_op, decode_din, errorPattern, locate_eq_none_iff, syndrome_eq]
  · rw [responseOf_eq_rspUncorrectable hfail]
    exact ⟨rfl, rfl⟩

/-- Settles O19: only the reserved select decodes to an operation whose response is `rspIllegal`. -/
theorem illegalOpExactCause : Obligations.IllegalOpExactCause := by
  refine fun w => ⟨responseOf (decode w), answers_responseOf_decode w, ?_, fun hill => ?_⟩
  · rw [responseOf_ill_iff, decode_op]
  · rw [responseOf_eq_rspIllegal hill]
    exact ⟨rfl, rfl⟩

/-- Settles O20: every request word decodes to an operation with a response, and the first five select codes to one that never fails. -/
theorem everyRequestIsAnswered : Obligations.EveryRequestIsAnswered := by
  refine ⟨fun w => ⟨_, answers_responseOf_decode w⟩, fun op hop din => ?_⟩
  have hmem : (decode (reqWord op din)).op ∈ [0#3, 1#3, 2#3, 3#3, 4#3] := by
    rw [decode_op, reqOp_reqWord]
    exact hop
  obtain ⟨v, hv⟩ := responseOf_eq_rspOk_of_op hmem
  have hanswer := answers_responseOf_decode (reqWord op din)
  rw [hv] at hanswer
  exact ⟨v, hanswer⟩

end Sys2Proof.Machine
end

section
/-! What a whole run records: one exchange per pending request, in the order they were presented (70_reset_and_hazards.md R81). -/

namespace Sys2Proof.Machine

open Sys2Proof

/-- The exchange that answering the request `w` records, the same in every state (00_scope.md R11). -/
def exchangeOf (w : ReqWord) : Exchange := { request := w, response := responseOf (decode w) }

@[simp] theorem exchangeOf_request (w : ReqWord) : (exchangeOf w).request = w := rfl

theorem freshResponse_exchangeOf (w : ReqWord) : freshResponse (exchangeOf w).request = some (exchangeOf w).response :=
  freshResponse_eq w

/-- As many steps as requests are pending answer them all; the record is general, since each step has made it longer. -/
theorem coreRun_length_requests (ws : List ReqWord) (ex : List Exchange) :
    core.run ws.length { requests := ws, exchanges := ex } = .next { requests := [], exchanges := ex ++ ws.map exchangeOf } := by
  induction ws generalizing ex with
  | nil => rw [List.map_nil, List.append_nil, List.length_nil, coreRun_zero]
  | cons w ws ih =>
    have hfirst : step { requests := w :: ws, exchanges := ex } = .next { requests := ws, exchanges := ex ++ [exchangeOf w] } :=
      answers_responseOf_decode w ws ex
    rw [List.length_cons, coreRun_succ_next _ hfirst, ih, List.map_cons, List.append_assoc, List.singleton_append]

end Sys2Proof.Machine
end

section
/-! The obligations of 70_reset_and_hazards.md: the first request after reset, the record at reset, and whole runs: R76, R81. -/

namespace Sys2Proof.Machine

open Sys2Proof

/-- Settles O47: the run records the exchange of each request, and a core after reset gives the response in it. -/
theorem runAnswersEveryRequestInOrder : Obligations.RunAnswersEveryRequestInOrder := by
  refine fun ws ex => ⟨ws.map exchangeOf, coreRun_length_requests ws ex, ?_, fun x hx => ?_⟩
  · simp [Function.comp_def]
  · obtain ⟨w, -, rfl⟩ := List.mem_map.mp hx
    exact freshResponse_exchangeOf w

/-- Settles O43: the response that every state gives to the request, taken at the state after reset. -/
theorem resetAnswersAnyFirstRequest : Obligations.ResetAnswersAnyFirstRequest := by
  refine ⟨State.reset_requests, State.reset_exchanges, fun w => ?_⟩
  have hanswer := answers_responseOf_decode w
  exact ⟨responseOf (decode w), hanswer, hanswer [] []⟩

/-- Settles O45: nothing is recorded at reset, so nothing unsound is. -/
theorem invariantHoldsAtReset : Obligations.InvariantHoldsAtReset := by
  intro x hx
  rw [State.reset_exchanges] at hx
  exact absurd hx List.not_mem_nil

end Sys2Proof.Machine
end

section
/-! The valid codewords as the words of syndrome 0 (43_syndrome_error_locator.md R56). -/

namespace Sys2Proof.Machine

open Sys2Proof

theorem xor_xor_cancel_left {n : Nat} (a b : BitVec n) : a ^^^ (a ^^^ b) = b := by
  rw [← BitVec.xor_assoc, BitVec.xor_self, BitVec.zero_xor]

theorem xor_xor_cancel_right {n : Nat} (a b : BitVec n) : a ^^^ b ^^^ b = a := by
  rw [BitVec.xor_assoc, BitVec.xor_self, BitVec.xor_zero]

theorem isCodeword_iff_syndrome {w : W24} : IsCodeword w ↔ syndrome w = 0#12 := by
  rw [syndrome_eq, BitVec.xor_eq_zero_iff]

theorem isCodeword_codeword (d : V12) : IsCodeword (codeword d) := by
  rw [IsCodeword, codeword, high_cat, low_cat]

/-- A valid codeword is the codeword of its data half. -/
theorem eq_codeword_low {c : W24} (hc : IsCodeword c) : c = codeword (low c) :=
  eq_codeword_of_syndrome_eq_zero (isCodeword_iff_syndrome.mp hc)

/-- Two words differ by a valid codeword exactly if they have one syndrome. -/
theorem isCodeword_xor_iff {a b : W24} : IsCodeword (a ^^^ b) ↔ syndrome a = syndrome b := by
  rw [isCodeword_iff_syndrome, syndrome_xor, BitVec.xor_eq_zero_iff]

/-- A valid codeword does not show in the syndrome (43_syndrome_error_locator.md R56). -/
theorem syndrome_codeword_xor {c : W24} (hc : IsCodeword c) (e : W24) : syndrome (c ^^^ e) = syndrome e := by
  rw [syndrome_xor, isCodeword_iff_syndrome.mp hc, BitVec.zero_xor]

end Sys2Proof.Machine
end

section
/-! The weight of a sum, and the vectors of weight 0 and 1 (40_hamming_weight.md R44). -/

namespace Sys2Proof.Machine

open Sys2Proof

theorem eq_zero_of_wt12_eq_zero {v : V12} (h : wt12 v = 0) : v = 0#12 := by
  rw [wt12_eq_countP, List.countP_eq_zero] at h
  apply BitVec.eq_of_getLsbD_eq
  intro i hi
  simpa using h i (List.mem_range.mpr hi)

/-- Ones of a sum and common ones: bit by bit, each common one is lost twice (40_hamming_weight.md R44). -/
theorem countBits_xor_add_and (a b : W24) (k : Nat) :
    countBits (a ^^^ b) k + 2 * countBits (a &&& b) k = countBits a k + countBits b k := by
  induction k with
  | zero => rfl
  | succ k ih =>
    have hbit : ((a ^^^ b).getLsbD k).toNat + 2 * ((a &&& b).getLsbD k).toNat = (a.getLsbD k).toNat + (b.getLsbD k).toNat := by
      rw [BitVec.getLsbD_xor, BitVec.getLsbD_and]
      cases a.getLsbD k <;> cases b.getLsbD k <;> rfl
    simp only [countBits]
    omega

theorem wt24_xor_add_and (a b : W24) : wt24 (a ^^^ b) + 2 * wt24 (a &&& b) = wt24 a + wt24 b :=
  countBits_xor_add_and a b 24

@[simp] theorem wt24_zext24 (v : V12) : wt24 (zext24 v) = wt12 v := by
  rw [zext24_eq_cat, wt24_cat, wt12_zero, Nat.zero_add]

theorem zext24_xor (a b : V12) : zext24 (a ^^^ b) = zext24 a ^^^ zext24 b := BitVec.setWidth_xor

theorem zext24_and (a b : V12) : zext24 (a &&& b) = zext24 a &&& zext24 b := BitVec.setWidth_and

theorem wt12_xor_add_and (a b : V12) : wt12 (a ^^^ b) + 2 * wt12 (a &&& b) = wt12 a + wt12 b := by
  simpa only [← zext24_xor, ← zext24_and, wt24_zext24] using wt24_xor_add_and (zext24 a) (zext24 b)

/-- A bit that is 1 is all that the vector has in common with its one-hot vector. -/
theorem and_onehot12_of_getElem {v : V12} {i : Fin 12} (h : v[i] = true) : v &&& onehot12 i = onehot12 i := by
  ext j hj
  rw [BitVec.getElem_and, onehot12_getElem]
  by_cases hij : j = i.val
  · subst hij
    simpa using h
  · simp [hij]

/-- A vector of weight 1 is a one-hot vector: taking away a one of it leaves weight 0. -/
theorem exists_eq_onehot12_of_wt12_eq_one {v : V12} (h : wt12 v = 1) : ∃ i, v = onehot12 i := by
  obtain ⟨k, hk, hbit⟩ : ∃ k ∈ List.range 12, v.getLsbD k = true :=
    List.countP_pos_iff.mp (by rw [← wt12_eq_countP]; omega)
  have hk : k < 12 := List.mem_range.mp hk
  refine ⟨⟨k, hk⟩, BitVec.xor_eq_zero_iff.mp (eq_zero_of_wt12_eq_zero ?_)⟩
  have hone : v[(⟨k, hk⟩ : Fin 12)] = true := (BitVec.getLsbD_eq_getElem hk).symm.trans hbit
  have hsum := wt12_xor_add_and v (onehot12 ⟨k, hk⟩)
  rw [and_onehot12_of_getElem hone, wt12_onehot12] at hsum
  omega

end Sys2Proof.Machine
end

section
/-! The locator as a search for the light words of one syndrome: every such word is the pattern of a condition
(43_syndrome_error_locator.md R57). -/

namespace Sys2Proof.Machine

open Sys2Proof

/-- The two transforms undo each other; on a finite set a right inverse is a left inverse (41_generator_transform.md R49). -/
theorem gt_alt_gt_fwd (v : V12) : gt alt (gt fwd v) = v := by
  have hinj : Function.Injective (gt fwd) :=
    Finite.injective_iff_surjective.mpr fun y => ⟨gt alt y, gt_fwd_gt_alt y⟩
  exact hinj (gt_fwd_gt_alt (gt fwd v))

/-- Of two halves with at most three ones, one has at most one (43_syndrome_error_locator.md R57 item 3). -/
theorem light_halves_cases {a b : V12} (h : wt12 a + wt12 b ≤ maxErrors) :
    (wt12 a ≤ thDirect ∧ b = 0#12) ∨ (∃ i, wt12 a ≤ thSearch ∧ b = onehot12 i) ∨
    (a = 0#12 ∧ wt12 b ≤ thDirect) ∨ ∃ i, a = onehot12 i ∧ wt12 b ≤ thSearch := by
  unfold thDirect thSearch maxErrors at *
  by_cases hb0 : wt12 b = 0
  · exact .inl ⟨by omega, eq_zero_of_wt12_eq_zero hb0⟩
  by_cases hb1 : wt12 b = 1
  · obtain ⟨i, hi⟩ := exists_eq_onehot12_of_wt12_eq_one hb1
    exact .inr (.inl ⟨i, by omega, hi⟩)
  by_cases ha0 : wt12 a = 0
  · exact .inr (.inr (.inl ⟨eq_zero_of_wt12_eq_zero ha0, by omega⟩))
  · obtain ⟨i, hi⟩ := exists_eq_onehot12_of_wt12_eq_one (v := a) (by omega)
    exact .inr (.inr (.inr ⟨i, hi, by omega⟩))

/-- Step 3's candidate for the one data bit in error is the parity errors. -/
theorem dataCandidate_onehot12 (a : V12) (i : Fin 12) : dataCandidate (a ^^^ gt fwd (onehot12 i)) i = a := by
  rw [dataCandidate, gt_onehot12, xor_xor_cancel_right]

/-- Step 5's candidate for the one parity bit in error is the data errors. -/
theorem parityCandidate_onehot12 (b : V12) (i : Fin 12) : parityCandidate (gt alt (onehot12 i ^^^ gt fwd b)) i = b := by
  rw [parityCandidate, gt_xor, gt_alt_gt_fwd, gt_onehot12, BitVec.xor_comm, xor_xor_cancel_left]

/-- Every word of weight at most 3 is the pattern of a condition that holds for its syndrome. -/
theorem cat_mem_matchingPatterns {a b : V12} (h : wt12 a + wt12 b ≤ maxErrors) :
    cat a b ∈ matchingPatterns (syndrome (cat a b)) := by
  rw [mem_matchingPatterns, syndrome_cat]
  rcases light_halves_cases h with ⟨ha, rfl⟩ | ⟨i, ha, rfl⟩ | ⟨rfl, hb⟩ | ⟨i, rfl, hb⟩
  · rw [gt_zero, BitVec.xor_zero]
    exact .inl ⟨ha, rfl⟩
  · refine .inr (.inl ⟨i, ?_⟩)
    rw [dataCandidate_onehot12]
    exact ⟨ha, rfl⟩
  · rw [BitVec.zero_xor, gt_alt_gt_fwd]
    exact .inr (.inr (.inl ⟨hb, rfl⟩))
  · refine .inr (.inr (.inr ⟨i, ?_⟩))
    rw [parityCandidate_onehot12]
    exact ⟨hb, rfl⟩

theorem mem_matchingPatterns_iff_light {s : V12} {e : W24} : e ∈ matchingPatterns s ↔ syndrome e = s ∧ wt24 e ≤ maxErrors := by
  constructor
  · exact syndrome_and_weight_of_mem_matchingPatterns
  · rintro ⟨rfl, he⟩
    rw [← cat_high_low e, wt24_cat] at he
    simpa only [cat_high_low] using cat_mem_matchingPatterns he

/-- The locator answers a pattern exactly if it is a condition's: all that hold return the same (R57 item 4). -/
theorem locate_eq_some_iff_mem {s : V12} {e : W24} : locate s = some e ↔ e ∈ matchingPatterns s := by
  rw [← locateParallel_eq_locate, locateParallel]
  constructor
  · exact List.mem_of_head?
  · intro he
    obtain ⟨e', he'⟩ := Option.isSome_iff_exists.mp (List.isSome_head?.mpr (List.ne_nil_of_mem he))
    rw [he', eq_of_mem_matchingPatterns he (List.mem_of_head? he')]

@[simp] theorem distance_xor (w e : W24) : distance w (w ^^^ e) = wt24 e := by
  rw [distance, xor_xor_cancel_left]

/-- The locator answers the word of weight at most 3 that leads to a valid codeword. -/
theorem errorPattern_eq_some_iff {w e : W24} : errorPattern w = some e ↔ IsCodeword (w ^^^ e) ∧ wt24 e ≤ maxErrors := by
  rw [errorPattern, locate_eq_some_iff_mem, mem_matchingPatterns_iff_light, isCodeword_xor_iff, eq_comm]

/-- The locator finds no pattern exactly for the words farther than 3 from every valid codeword (43_syndrome_error_locator.md R58). -/
theorem errorPattern_eq_none_iff {w : W24} : errorPattern w = none ↔ ∀ c, IsCodeword c → maxErrors < distance w c := by
  rw [Option.eq_none_iff_forall_ne_some]
  constructor
  · intro hnone c hc
    refine Nat.lt_of_not_le fun hnear => hnone (w ^^^ c) (errorPattern_eq_some_iff.mpr ⟨?_, hnear⟩)
    rwa [xor_xor_cancel_left]
  · intro hfar e he
    obtain ⟨hcode, hlight⟩ := errorPattern_eq_some_iff.mp he
    have hdist := hfar _ hcode
    rw [distance_xor] at hdist
    exact absurd hlight (Nat.not_le.mpr hdist)

/-- `DEC` finds the data words whose codewords are within distance 3 (44_decoder.md R62 item 2). -/
theorem correctedData_eq_some_iff {w : W24} {m : V12} : correctedData w = some m ↔ distance w (codeword m) ≤ maxErrors := by
  have hdata (e : W24) : receivedData w ^^^ low e = low (w ^^^ e) := (low_xor w e).symm
  rw [correctedData, Option.map_eq_some_iff]
  constructor
  · rintro ⟨e, he, rfl⟩
    obtain ⟨hcode, hlight⟩ := errorPattern_eq_some_iff.mp he
    rwa [hdata, ← eq_codeword_low hcode, distance_xor]
  · intro hnear
    refine ⟨w ^^^ codeword m, errorPattern_eq_some_iff.mpr ⟨?_, hnear⟩, ?_⟩
    · rw [xor_xor_cancel_left]
      exact isCodeword_codeword m
    · rw [hdata, xor_xor_cancel_left, codeword, low_cat]

theorem correctedData_eq_none_iff {w : W24} : correctedData w = none ↔ errorPattern w = none := by
  rw [correctedData, Option.map_eq_none_iff]

end Sys2Proof.Machine
end

section
/-! Every exchange the core adds is sound, and the obligation about the invariant of a run: each clause of `Sound` is what the operation
with the clause's select code promises (30_encoding.md R36, 42_encoder.md R53, 43_syndrome_error_locator.md R56 to R58, 44_decoder.md
R62). -/

namespace Sys2Proof.Machine

open Sys2Proof

theorem zext24_eq_zero_iff {v : V12} : zext24 v = 0#24 ↔ v = 0#12 := by
  constructor
  · intro h
    rw [← low_zext24 v, h]
    rfl
  · rintro rfl
    rfl

/-- The filler stands beside either condition (30_encoding.md R33). -/
theorem responseOf_filler {i : Instr} (h : (responseOf i).fail = true ∨ (responseOf i).ill = true) :
    (responseOf i).dout = 0#24 := by
  rcases h with hfail | hill
  · rw [responseOf_eq_rspUncorrectable hfail, rspUncorrectable_dout]
  · rw [responseOf_eq_rspIllegal hill, rspIllegal_dout]

/-- Select code 0 is `WT12`'s. -/
theorem responseOf_dout_le_of_op {i : Instr} (h : i.op = 0#3) : (responseOf i).dout.toNat ≤ 12 := by
  cases i with
  | wt12 x v =>
    have hle := wt12_le v
    rw [responseOf, rspOk_dout, weightOut_eq_ofNat (by omega), BitVec.toNat_ofNat]
    omega
  | gtf | gta | enc | syn | eloc | dec | rsv7 => simp [Instr.op] at h

/-- Select codes 1, 2, 4 and 6 are those of the operations with a 12-bit result. -/
theorem responseOf_dout_high_of_op {i : Instr} (h : i.op = 1#3 ∨ i.op = 2#3 ∨ i.op = 4#3 ∨ i.op = 6#3) :
    high (responseOf i).dout = 0#12 := by
  cases i with
  | gtf x v => exact high_zext24 _
  | gta x v => exact high_zext24 _
  | syn rp rd => exact high_zext24 _
  | dec rp rd =>
    rw [responseOf_dec]
    exact high_zext24 _
  | wt12 | enc | eloc | rsv7 => simp [Instr.op] at h

/-- Select code 3 is `ENC`'s. -/
theorem responseOf_encoded_of_op {i : Instr} (h : i.op = 3#3) :
    IsCodeword (responseOf i).dout ∧ low (responseOf i).dout = low i.din := by
  cases i with
  | enc x d =>
    refine ⟨isCodeword_codeword d, ?_⟩
    rw [responseOf, rspOk_dout, codeword, Instr.din, low_cat, low_cat]
  | wt12 | gtf | gta | syn | eloc | dec | rsv7 => simp [Instr.op] at h

/-- Select code 4 is `SYN`'s. -/
theorem responseOf_dout_eq_zero_iff_of_op {i : Instr} (h : i.op = 4#3) : (responseOf i).dout = 0#24 ↔ IsCodeword i.din := by
  cases i with
  | syn rp rd => rw [responseOf, rspOk_dout, zext24_eq_zero_iff, Instr.din, isCodeword_iff_syndrome]
  | wt12 | gtf | gta | enc | eloc | dec | rsv7 => simp [Instr.op] at h

/-- Select code 5 is `ELOC`'s. -/
theorem responseOf_located_of_op {i : Instr} (h : i.op = 5#3) (hfail : (responseOf i).fail = false) :
    wt24 (responseOf i).dout ≤ maxErrors ∧ IsCodeword (i.din ^^^ (responseOf i).dout) := by
  cases i with
  | eloc rp rd =>
    cases hpattern : errorPattern (cat rp rd) with
    | none => simp [responseOf, hpattern] at hfail
    | some e =>
      rw [(responseOf_eloc_dec_of_errorPattern_eq_some hpattern).1, rspOk_dout]
      exact (errorPattern_eq_some_iff.mp hpattern).symm
  | wt12 | gtf | gta | enc | syn | dec | rsv7 => simp [Instr.op] at h

/-- Select code 6 is `DEC`'s. -/
theorem responseOf_decoded_of_op {i : Instr} (h : i.op = 6#3) (hfail : (responseOf i).fail = false) :
    ∃ c, IsCodeword c ∧ distance i.din c ≤ maxErrors ∧ low c = low (responseOf i).dout := by
  cases i with
  | dec rp rd =>
    cases hdata : correctedData (cat rp rd) with
    | none => simp [responseOf, hdata] at hfail
    | some m =>
      refine ⟨codeword m, isCodeword_codeword m, correctedData_eq_some_iff.mp hdata, ?_⟩
      rw [responseOf, hdata, Option.map_some, rspOption_some, rspOk_dout, low_zext24, codeword, low_cat]
  | wt12 | gtf | gta | enc | syn | eloc | rsv7 => simp [Instr.op] at h

/-- The exchange that answering `w` records owes `w` what the decoded operation promises. -/
theorem sound_exchangeOf (w : ReqWord) : Sound (exchangeOf w) where
  ill_iff := decode_op w ▸ responseOf_ill_iff (decode w)
  fail_op hfail := decode_op w ▸ ((responseOf_fail_iff (decode w)).mp hfail).1
  filler := responseOf_filler
  weight_le hop := responseOf_dout_le_of_op ((decode_op w).trans hop)
  narrow hop := responseOf_dout_high_of_op ((decode_op w).symm ▸ hop)
  encoded hop := decode_din w ▸ responseOf_encoded_of_op ((decode_op w).trans hop)
  syndrome_zero hop := decode_din w ▸ responseOf_dout_eq_zero_iff_of_op ((decode_op w).trans hop)
  located hop hfail := decode_din w ▸ responseOf_located_of_op ((decode_op w).trans hop) hfail
  decoded hop hfail := decode_din w ▸ responseOf_decoded_of_op ((decode_op w).trans hop) hfail
  uncorrectable hfail :=
    errorPattern_eq_none_iff.mp (decode_din w ▸ ((responseOf_fail_iff (decode w)).mp hfail).2)

/-- Settles O46: a step adds the exchange of the request it takes, which is sound, and keeps the others. -/
theorem invariantKeptByEveryStep : Obligations.InvariantKeptByEveryStep := by
  rintro ⟨requests, exchanges⟩ s' hinv hstep
  cases requests with
  | nil => rw [step_nil] at hstep; cases hstep
  | cons w rest =>
    rw [answers_responseOf_decode w rest exchanges] at hstep
    cases hstep
    intro x hx
    rcases List.mem_append.mp hx with hx | hx
    · exact hinv x hx
    · rw [List.mem_singleton.mp hx]
      exact sound_exchangeOf w

end Sys2Proof.Machine
end

section
/-! The laws of the weight and how many vectors have each weight, and the obligation of 40_hamming_weight.md about them: R44. -/

namespace Sys2Proof.Machine

open Sys2Proof

@[simp] theorem wt12_allOnes : wt12 0xFFF#12 = 12 := by decide

theorem wt12_eq_zero_iff {v : V12} : wt12 v = 0 ↔ v = 0#12 :=
  ⟨eq_zero_of_wt12_eq_zero, fun h => h ▸ wt12_zero⟩

/-- A vector has all its ones in common with the vector of all ones. -/
theorem wt12_complement (v : V12) : wt12 (v ^^^ 0xFFF#12) + wt12 v = 12 := by
  have hsum := wt12_xor_add_and v 0xFFF#12
  have hand : v &&& 0xFFF#12 = v := BitVec.and_allOnes
  rw [hand, wt12_allOnes] at hsum
  omega

theorem wt12_eq_twelve_iff {v : V12} : wt12 v = 12 ↔ v = 0xFFF#12 := by
  have hsum := wt12_complement v
  rw [← BitVec.xor_eq_zero_iff, ← wt12_eq_zero_iff]
  omega

/-- The number of ones among the `k` lowest bits of a number. -/
def bitCount (k m : Nat) : Nat := (List.range k).countP m.testBit

theorem bitCount_succ_of_lt {k m : Nat} (h : m < 2 ^ k) : bitCount (k + 1) m = bitCount k m := by
  rw [bitCount, countP_range_succ, Nat.testBit_lt_two_pow h]
  rfl

theorem bitCount_succ_two_pow_add {k m : Nat} (h : m < 2 ^ k) : bitCount (k + 1) (2 ^ k + m) = bitCount k m + 1 := by
  have htop : (2 ^ k + m).testBit k = true := by rw [Nat.testBit_two_pow_add_eq, Nat.testBit_lt_two_pow h]; rfl
  have hbelow : bitCount k (2 ^ k + m) = bitCount k m :=
    List.countP_congr fun i hi => by rw [Nat.testBit_two_pow_add_gt (List.mem_range.mp hi)]
  rw [bitCount, countP_range_succ, htop, ← bitCount, hbelow]
  rfl

/-- How many numbers of `k` bits have each number of ones: Pascal's rule, on the top bit. -/
theorem countP_bitCount (k n : Nat) : ((List.range (2 ^ k)).countP fun m => bitCount k m == n) = Nat.choose k n := by
  induction k generalizing n with
  | zero => cases n <;> rfl
  | succ k ih =>
    have hlow : ((List.range (2 ^ k)).countP fun m => bitCount (k + 1) m == n) = Nat.choose k n := by
      rw [← ih]
      exact List.countP_congr fun m hm => by rw [bitCount_succ_of_lt (List.mem_range.mp hm)]
    have hhigh : ((List.range (2 ^ k)).countP fun m => bitCount (k + 1) (2 ^ k + m) == n) =
        (List.range (2 ^ k)).countP fun m => bitCount k m + 1 == n :=
      List.countP_congr fun m hm => by rw [bitCount_succ_two_pow_add (List.mem_range.mp hm)]
    rw [Nat.pow_succ, Nat.mul_two, List.range_add, List.countP_append, List.countP_map, Function.comp_def, hlow, hhigh]
    cases n with
    | zero => simp
    | succ n => simp [ih, Nat.choose_succ_succ, Nat.add_comm (k.choose n)]

theorem wt12_ofNat (k : Nat) : wt12 (BitVec.ofNat 12 k) = bitCount 12 k := by
  rw [wt12_eq_countP, bitCount]
  exact List.countP_congr fun i hi => by rw [BitVec.getLsbD_ofNat, decide_eq_true (List.mem_range.mp hi), Bool.true_and]

theorem countV12_wt12 (n : Nat) : countV12 (fun v => wt12 v = n) = Nat.choose 12 n := by
  rw [← countP_bitCount]
  exact List.countP_congr fun k _ => by rw [decide_eq_true_iff, wt12_ofNat, beq_iff_eq]

/-- The numbers below 4096 and the 12-bit vectors with a property are as many. -/
def numbersEquivVectors (p : V12 → Prop) : { k : Nat // k < 4096 ∧ p (BitVec.ofNat 12 k) } ≃ { v : V12 // p v } where
  toFun k := ⟨BitVec.ofNat 12 k, k.2.2⟩
  invFun v := ⟨v.1.toNat, v.1.isLt, by simpa using v.2⟩
  left_inv k := Subtype.ext (by simpa using Nat.mod_eq_of_lt k.2.1)
  right_inv v := Subtype.ext (by simp)

theorem countV12_eq_card (p : V12 → Prop) [DecidablePred p] : countV12 (fun v => p v) = Nat.card { v // p v } := by
  rw [← Nat.card_congr (numbersEquivVectors p)]
  exact (Nat.count_eq_card_fintype (fun k => p (BitVec.ofNat 12 k)) 4096).trans Fintype.card_eq_nat_card

/-- The count of a disjunction whose two sides exclude each other. The two counts are named by equations: Lean's kernel would evaluate a
sum of two closed counts. -/
theorem countV12_or {p q r : V12 → Prop} [DecidablePred p] [DecidablePred q] [DecidablePred r] {m n : Nat}
    (hp : countV12 (fun v => p v) = m) (hq : countV12 (fun v => q v) = n) (hr : ∀ v, r v ↔ p v ∨ q v)
    (hdisjoint : ∀ v, p v → ¬ q v) : countV12 (fun v => r v) = m + n := by
  rw [← hp, ← hq]
  simp only [hr, countV12_eq_card]
  rw [Nat.card_congr (subtypeOrEquiv p q (Pi.disjoint_iff.mpr fun v => by simpa using hdisjoint v)), Nat.card_sum]

/-- How many vectors are no heavier than a bound, one weight at a time. -/
theorem countV12_wt12_le (n : Nat) : countV12 (fun v => wt12 v ≤ n) = ∑ i ∈ Finset.range (n + 1), Nat.choose 12 i := by
  induction n with
  | zero => simp only [Nat.le_zero, countV12_wt12, zero_add, Finset.sum_range_one]
  | succ n ih =>
    rw [Finset.sum_range_succ]
    exact countV12_or ih (countV12_wt12 (n + 1)) (fun v => Nat.le_succ_iff) fun v => by omega

/-- Settles O21: the laws on sums and complements come from the count of common ones, the numbers of vectors from Pascal's rule. -/
theorem weightLaws : Obligations.WeightLaws :=
  ⟨fun v => ⟨wt12_le v, wt12_eq_zero_iff, wt12_eq_twelve_iff⟩, wt12_onehot12, wt12_complement, wt12_xor_add_and,
    fun n _ => countV12_wt12 n, countV12_wt12_le 3, countV12_wt12_le 2⟩

end Sys2Proof.Machine
end

section
/-! The two matrices as transposes and inverses of each other, the transforms as linear maps and as one XOR tree per output bit, and the
obligations of 10_state.md and 41_generator_transform.md about them: R20, R48, R49, R50. -/

namespace Sys2Proof.Machine

open Sys2Proof

/-- The alternate matrix is the forward one with rows and columns exchanged (10_state.md R20 item 1). -/
theorem alt_getElem_getElem : ∀ i j : Fin 12, alt[j][i] = fwd[i][j] := by decide

/-- Settles O22: the transposition and the comparison of the rows are read off the tables, the inverse is `gt_alt_gt_fwd` and its
converse. -/
theorem tablesTransposeAndInverse : Obligations.TablesTransposeAndInverse :=
  ⟨alt_getElem_getElem, fun x => ⟨gt_alt_gt_fwd x, gt_fwd_gt_alt x⟩, by decide, by decide, by decide⟩

/-- The transform is the XOR of the rows of the ones, taken one after the other. -/
theorem gt_eq_foldl_rows (M : Matrix12) (x : V12) :
    gt M x = ((indices12.filter fun i => x[i]).map fun i => gt M (onehot12 i)).foldl (· ^^^ ·) 0#12 := by
  simp only [gt_onehot12, List.foldl_map, List.foldl_filter]
  rfl

/-- Settles O23: the loop of the transform is linear, and a one-hot vector reads out a row. -/
theorem transformsAreLinear : Obligations.TransformsAreLinear := by
  refine fun M _ => ⟨gt_zero M, gt_xor M, fun x i => ?_, gt_eq_foldl_rows M⟩
  rw [gt_xor, gt_onehot12]

theorem gt_fwd_bijective : Function.Bijective (gt fwd) :=
  Function.bijective_iff_has_inverse.mpr ⟨gt alt, gt_alt_gt_fwd, gt_fwd_gt_alt⟩

theorem gt_alt_bijective : Function.Bijective (gt alt) :=
  Function.bijective_iff_has_inverse.mpr ⟨gt fwd, gt_fwd_gt_alt, gt_alt_gt_fwd⟩

/-- Errors in data bits only have the syndrome of their transform. -/
@[simp] theorem syndrome_zext24 (v : V12) : syndrome (zext24 v) = gt fwd v := by
  rw [zext24_eq_cat, syndrome_cat, BitVec.zero_xor]

/-- Settles O24: an injective linear map vanishes only at 0, and a valid codeword does not show in the syndrome. -/
theorem transformsUndoEachOther : Obligations.TransformsUndoEachOther := by
  refine ⟨fun x => ⟨gt_alt_gt_fwd x, gt_fwd_gt_alt x⟩, gt_fwd_bijective, gt_alt_bijective, fun x => ⟨?_, ?_⟩, fun c ed hc => ?_⟩
  · exact gt_fwd_bijective.injective.eq_iff' (gt_zero fwd)
  · exact gt_alt_bijective.injective.eq_iff' (gt_zero alt)
  · have hsyn : syndrome (c ^^^ zext24 ed) = gt fwd ed := (syndrome_codeword_xor hc _).trans (syndrome_zext24 ed)
    exact ⟨hsyn, (congrArg (gt alt) hsyn).trans (gt_alt_gt_fwd ed)⟩

/-- The weight as a count over the row indices. -/
theorem wt12_eq_countP_indices12 (v : V12) : wt12 v = indices12.countP fun i => v[i] := by
  have hindices : List.range 12 = indices12.map Fin.val := by decide
  rw [wt12_eq_countP, hindices, List.countP_map]
  exact List.countP_congr fun i _ => by rw [Function.comp_apply, BitVec.getLsbD_eq_getElem i.isLt, Fin.getElem_fin]

/-- Where `N` holds the columns of `M`, an output bit is the parity of the input masked by a row of `N`. -/
theorem gt_getElem_of_transpose {M N : Matrix12} {j : Fin 12} (h : ∀ i : Fin 12, N[j][i] = M[i][j]) (x : V12) :
    (gt M x)[j] = decide (wt12 (x &&& N[j]) % 2 = 1) := by
  rw [gt_isRowXor, wt12_eq_countP_indices12]
  congr 3
  refine List.countP_congr fun i _ => ?_
  rw [← h]
  simp only [Fin.getElem_fin, BitVec.getElem_and]

/-- Settles O25: each matrix holds the columns of the other; the weights of the rows are read off the tables. -/
theorem transformColumnForm : Obligations.TransformColumnForm := by
  refine ⟨fun x j => ⟨?_, ?_⟩, by decide, fun x => ?_⟩
  · exact gt_getElem_of_transpose (fun i => alt_getElem_getElem i j) x
  · exact gt_getElem_of_transpose (fun i => (alt_getElem_getElem j i).symm) x
  · show (gt fwd x)[(0 : Fin 12)] = _
    simp only [gt, indices12, List.foldl_cons, List.foldl_nil, xorIf_getElem]
    simp [fwd]

end Sys2Proof.Machine
end

section
/-! The codewords as a linear code with its weights, the words of each syndrome, and the obligations of 42_encoder.md and
43_syndrome_error_locator.md about them: R53, R56. -/

namespace Sys2Proof.Machine

open Sys2Proof

theorem codeword_injective : Function.Injective codeword := fun a b h => by
  simpa [codeword] using congrArg low h

theorem codeword_xor (a b : V12) : codeword (a ^^^ b) = codeword a ^^^ codeword b := by
  apply word_ext <;> simp [codeword, gt_xor]

theorem exists_codeword_eq_iff {w : W24} : (∃ d, codeword d = w) ↔ IsCodeword w :=
  ⟨fun ⟨d, hd⟩ => hd ▸ isCodeword_codeword d, fun hw => ⟨low w, (eq_codeword_low hw).symm⟩⟩

theorem codeword_complement (d : V12) : codeword (d ^^^ 0xFFF#12) = codeword d ^^^ 0xFFFFFF#24 := by
  rw [codeword_xor, codeword_allOnes]

/-- Two codewords are as far apart as a nonzero codeword is heavy (42_encoder.md R53 item 3). -/
theorem minDistance_le_distance_codeword {a b : V12} (h : a ≠ b) : minDistance ≤ distance (codeword a) (codeword b) := by
  rw [distance, ← codeword_xor]
  exact wt24_codeword fun hzero => h (BitVec.xor_eq_zero_iff.mp hzero)

/-- The weight of a codeword, on numbers. -/
def codewordWeightNat (n : Nat) : Nat := weightFast (forwardNat n) + weightFast n

theorem wt24_codeword_eq (d : V12) : wt24 (codeword d) = codewordWeightNat d.toNat := by
  rw [codeword, wt24_cat, wt12_eq_weightFast, wt12_eq_weightFast, gt_fwd_toNat, codewordWeightNat]

/-- Every codeword has a multiple of 4 ones, evaluated on the tables (42_encoder.md R53 item 4). -/
theorem codewordWeight_mod_four_all : allBelow (fun n => codewordWeightNat n % 4 == 0) 4096 = true := by
  decide +kernel

theorem wt24_codeword_mod_four (d : V12) : wt24 (codeword d) % 4 = 0 := by
  rw [wt24_codeword_eq]
  exact eq_of_beq (forall_v12_of_allBelow codewordWeight_mod_four_all d)

theorem wt24_codeword_complement (d : V12) : wt24 (codeword (d ^^^ 0xFFF#12)) + wt24 (codeword d) = 24 := by
  have hsum := wt24_xor_add_and (codeword d) 0xFFFFFF#24
  have hand : codeword d &&& 0xFFFFFF#24 = codeword d := BitVec.and_allOnes
  have hones : wt24 0xFFFFFF#24 = 24 := by decide
  rw [hand, hones] at hsum
  rw [codeword_complement]
  omega

/-- The weights of the code: a nonzero codeword and the complement of one other than all ones have at least 8 ones. -/
theorem wt24_codeword_cases (d : V12) :
    (d = 0#12 ∧ wt24 (codeword d) = 0) ∨ (d = 0xFFF#12 ∧ wt24 (codeword d) = 24) ∨
    (d ≠ 0#12 ∧ d ≠ 0xFFF#12 ∧ (wt24 (codeword d) = 8 ∨ wt24 (codeword d) = 12 ∨ wt24 (codeword d) = 16)) := by
  by_cases hzero : d = 0#12
  · exact .inl ⟨hzero, by rw [hzero, codeword_zero]; rfl⟩
  by_cases hones : d = 0xFFF#12
  · exact .inr (.inl ⟨hones, by rw [hones, codeword_allOnes]; decide⟩)
  have hheavy := wt24_codeword hzero
  have hlight := wt24_codeword (d := d ^^^ 0xFFF#12) fun h => hones (BitVec.xor_eq_zero_iff.mp h)
  have hsum := wt24_codeword_complement d
  have hmod := wt24_codeword_mod_four d
  rw [minDistance] at hheavy hlight
  exact .inr (.inr ⟨hzero, hones, by omega⟩)

/-- How many codewords have each weight between the extremes, evaluated on the tables (42_encoder.md R53 item 4). -/
theorem codewordWeight_counts : ∀ x ∈ [(8, 759), (12, 2576), (16, 759)],
    ((List.range 4096).countP fun k => codewordWeightNat k == x.1) = x.2 := by
  decide +kernel

theorem countV12_codeword_weight {n count : Nat} (h : (n, count) ∈ [(8, 759), (12, 2576), (16, 759)]) :
    countV12 (fun d => wt24 (codeword d) = n) = count := by
  refine Eq.trans (List.countP_congr fun k hk => ?_) (codewordWeight_counts (n, count) h)
  rw [decide_eq_true_iff, wt24_codeword_eq, BitVec.toNat_ofNat, Nat.mod_eq_of_lt (List.mem_range.mp hk), beq_iff_eq]

/-- A count of one vector. -/
theorem countV12_eq (d : V12) : countV12 (fun v => v = d) = 1 := by
  rw [countV12_eq_card, Nat.card_unique]

theorem countV12_congr {p q : V12 → Prop} [DecidablePred p] [DecidablePred q] (h : ∀ v, p v ↔ q v) :
    countV12 (fun v => p v) = countV12 (fun v => q v) := by
  simp only [h]

theorem wt24_codeword_eq_zero_iff {d : V12} : wt24 (codeword d) = 0 ↔ d = 0#12 := by
  rcases wt24_codeword_cases d with ⟨rfl, hw⟩ | ⟨rfl, hw⟩ | ⟨hzero, -, hw⟩
  · exact iff_of_true hw rfl
  · exact iff_of_false (by omega) (by decide)
  · exact iff_of_false (by omega) hzero

theorem wt24_codeword_eq_twentyFour_iff {d : V12} : wt24 (codeword d) = 24 ↔ d = 0xFFF#12 := by
  have hsum := wt24_codeword_complement d
  rw [← BitVec.xor_eq_zero_iff, ← wt24_codeword_eq_zero_iff]
  omega

/-- The weight distribution of the code. -/
theorem countV12_wt24_codeword (n : Nat) : countV12 (fun d => wt24 (codeword d) = n) =
    if n = 0 ∨ n = 24 then 1 else if n = 8 ∨ n = 16 then 759 else if n = 12 then 2576 else 0 := by
  split_ifs with hends hmiddle htwelve
  · rcases hends with rfl | rfl
    · exact (countV12_congr fun _ => wt24_codeword_eq_zero_iff).trans (countV12_eq 0#12)
    · exact (countV12_congr fun _ => wt24_codeword_eq_twentyFour_iff).trans (countV12_eq 0xFFF#12)
  · rcases hmiddle with rfl | rfl <;> exact countV12_codeword_weight (by decide)
  · subst htwelve
    exact countV12_codeword_weight (by decide)
  · refine List.countP_eq_zero.mpr fun k _ => ?_
    have hcases := wt24_codeword_cases (BitVec.ofNat 12 k)
    rw [decide_eq_true_iff]
    omega

/-- Settles O27: a linear code is described by its syndromes and by the weights of its words. -/
theorem codewordSetLaws : Obligations.CodewordSetLaws :=
  ⟨codeword_xor, codeword_injective, fun w => ⟨exists_codeword_eq_iff, isCodeword_iff_syndrome⟩,
    ⟨rfl, fun a b => minDistance_le_distance_codeword⟩, countV12_wt24_codeword, codeword_complement, by decide⟩

/-- A word is given by its syndrome and its data half. -/
def wordEquivSyndromeData : W24 ≃ V12 × V12 where
  toFun w := (syndrome w, low w)
  invFun p := cat (p.1 ^^^ gt fwd p.2) p.2
  left_inv w := by simp only [syndrome_eq, xor_xor_cancel_right, cat_high_low]
  right_inv p := by simp only [syndrome_cat, low_cat, xor_xor_cancel_right]

/-- Every syndrome has as many words as there are data halves. -/
theorem card_words_of_syndrome (p : V12 → Prop) : Nat.card { w : W24 // p (syndrome w) } = Nat.card { s // p s } * 4096 := by
  have hdata : Nat.card V12 = 4096 := (Nat.card_congr BitVec.equivFin.toEquiv).trans (Nat.card_fin _)
  have hwords : Nat.card { w : W24 // p (syndrome w) } = Nat.card { x : V12 × V12 // p x.1 } :=
    Nat.card_congr (wordEquivSyndromeData.subtypeEquiv fun _ => Iff.rfl)
  rw [hwords, Nat.card_congr Equiv.prodSubtypeFstEquivSubtypeProd, Nat.card_prod, hdata]

/-- Settles O28: the syndrome is linear and vanishes on the codewords, so it sees the errors only. -/
theorem syndromeLaws : Obligations.SyndromeLaws := by
  refine ⟨syndrome_xor, by decide, fun w => isCodeword_iff_syndrome.symm, fun c ep ed hc => ?_, fun s => ⟨?_, ?_⟩⟩
  · have hsyn : syndrome (c ^^^ cat ep ed) = ep ^^^ gt fwd ed := (syndrome_codeword_xor hc _).trans (syndrome_cat ep ed)
    refine ⟨syndrome_codeword_xor hc _, hsyn, (congrArg (gt alt) hsyn).trans ?_⟩
    rw [gt_xor, gt_alt_gt_fwd]
  · show syndrome (cat s 0#12) = s
    rw [syndrome_cat, gt_zero, BitVec.xor_zero]
  · rw [card_words_of_syndrome (· = s), Nat.card_unique, Nat.one_mul]

end Sys2Proof.Machine
end

section
/-! What the locator and the decoder make of a valid codeword with errors, by the number of errors, and the obligations of
43_syndrome_error_locator.md and 44_decoder.md about it: R57, R58, R62. -/

namespace Sys2Proof.Machine

open Sys2Proof

/-- Settles O29: a light word has a half with at most one error, which one of the conditions finds. -/
theorem locatorConditionsAreExact : Obligations.LocatorConditionsAreExact := fun _ _ => mem_matchingPatterns_iff_light

/-- Settles O30: two light words with one syndrome differ by a codeword too light to be another than 0. -/
theorem locatorPatternIsUnique : Obligations.LocatorPatternIsUnique :=
  ⟨fun _ _ => eq_of_syndrome_eq, fun _ _ => locate_eq_some_iff_mem.mpr⟩

/-- A request has one response. -/
theorem Answers.unique {w : ReqWord} {r r' : Response} (h : Answers w r) (h' : Answers w r') : r = r' := by
  simpa using (h [] []).symm.trans (h' [] [])

theorem answers_iff_of_answers {w : ReqWord} {r r' : Response} (h : Answers w r) : Answers w r' ↔ r = r' :=
  ⟨h.unique, fun heq => heq ▸ h⟩

/-- `ELOC` succeeds with the locator's pattern. -/
theorem answers_eloc_ok_iff {w e : W24} : Answers (5#3 ++ w) (rspOk e) ↔ errorPattern w = some e := by
  rw [answers_iff_of_answers (answers_receivedWord w).2.1]
  cases errorPattern w <;> simp [rspOk, rspUncorrectable]

/-- `ELOC` fails where the locator finds no pattern. -/
theorem answers_eloc_uncorrectable_iff {w : W24} : Answers (5#3 ++ w) rspUncorrectable ↔ errorPattern w = none := by
  rw [answers_iff_of_answers (answers_receivedWord w).2.1]
  cases errorPattern w <;> simp [rspOk, rspUncorrectable]

/-- `DEC` succeeds with the corrected data word. -/
theorem answers_dec_ok_iff {w : W24} {m : V12} : Answers (6#3 ++ w) (rspOk (zext24 m)) ↔ correctedData w = some m := by
  rw [answers_iff_of_answers (answers_receivedWord w).2.2]
  cases correctedData w with
  | none => simp [rspOk, rspUncorrectable]
  | some m' => exact ⟨fun h => by simpa using congrArg (fun r => low r.dout) h, fun h => by simp_all⟩

/-- `DEC` fails where the locator finds no pattern. -/
theorem answers_dec_uncorrectable_iff {w : W24} : Answers (6#3 ++ w) rspUncorrectable ↔ errorPattern w = none := by
  rw [answers_iff_of_answers (answers_receivedWord w).2.2, ← correctedData_eq_none_iff]
  cases correctedData w <;> simp [rspOk, rspUncorrectable]

/-- Settles O33: `ELOC` looks at the syndrome only. -/
theorem elocDependsOnSyndromeOnly : Obligations.ElocDependsOnSyndromeOnly := by
  intro w w' hsyn
  have heq : errorPattern w' = errorPattern w := congrArg locate hsyn.symm
  exact ⟨_, (answers_receivedWord w).2.1, heq ▸ (answers_receivedWord w').2.1⟩

/-- The locator does not see a valid codeword. -/
theorem errorPattern_codeword_xor {c : W24} (hc : IsCodeword c) (e : W24) : errorPattern (c ^^^ e) = errorPattern e :=
  congrArg locate (syndrome_codeword_xor hc e)

/-- A light word is its own pattern. -/
theorem errorPattern_of_light {e : W24} (he : wt24 e ≤ maxErrors) : errorPattern e = some e := by
  rw [errorPattern_eq_some_iff, BitVec.xor_self]
  exact ⟨by decide, he⟩

/-- Settles O34: the locator does not see the codeword, and a light word is its own pattern. -/
theorem elocLocatesUpToThreeErrors : Obligations.ElocLocatesUpToThreeErrors := fun _ _ hc he =>
  answers_eloc_ok_iff.mpr ((errorPattern_codeword_xor hc _).trans (errorPattern_of_light he))

/-- Two words that differ by a codeword, with fewer ones together than the minimum distance, are equal. -/
theorem eq_of_isCodeword_xor {a b : W24} (hcode : IsCodeword (a ^^^ b)) (hlight : wt24 a + wt24 b < minDistance) : a = b := by
  have hword := eq_codeword_low hcode
  have hweight := wt24_xor_le a b
  by_cases hzero : low (a ^^^ b) = 0#12
  · rw [hzero, codeword_zero] at hword
    exact BitVec.xor_eq_zero_iff.mp hword
  · have hheavy := wt24_codeword hzero
    rw [← hword] at hheavy
    omega

/-- No word of weight 4 has a light pattern: the two would be equal. -/
theorem errorPattern_of_four {e : W24} (he : wt24 e = 4) : errorPattern e = none := by
  refine Option.eq_none_iff_forall_ne_some.mpr fun e' hpattern => ?_
  obtain ⟨hcode, hlight⟩ := errorPattern_eq_some_iff.mp hpattern
  rw [maxErrors] at hlight
  have heq : e = e' := eq_of_isCodeword_xor hcode (by rw [minDistance]; omega)
  rw [heq] at he
  omega

/-- Settles O35: both operations fail where the locator finds no pattern. -/
theorem fourErrorsAreUncorrectable : Obligations.FourErrorsAreUncorrectable := fun _ _ hc he =>
  have hnone := (errorPattern_codeword_xor hc _).trans (errorPattern_of_four he)
  ⟨answers_eloc_uncorrectable_iff.mpr hnone, answers_dec_uncorrectable_iff.mpr hnone⟩

/-- Every syndrome of odd weight satisfies a condition of the locator, evaluated on the tables. -/
theorem candidate_of_odd_all : allBelow (fun n => weightFast n % 2 == 0 || !noCandidateNat n) 4096 = true := by
  decide +kernel

/-- A word and its syndrome, as a parity word, differ by a codeword, whose weight is even. -/
theorem wt12_syndrome_mod_two (w : W24) : wt12 (syndrome w) % 2 = wt24 w % 2 := by
  have hcode : IsCodeword (w ^^^ cat (syndrome w) 0#12) := by
    rw [isCodeword_xor_iff, syndrome_cat, gt_zero, BitVec.xor_zero]
  have hmod := wt24_codeword_mod_four (low (w ^^^ cat (syndrome w) 0#12))
  have hsum := wt24_xor_add_and w (cat (syndrome w) 0#12)
  rw [← eq_codeword_low hcode] at hmod
  rw [wt24_cat, wt12_zero] at hsum
  omega

theorem errorPattern_ne_none_of_odd {w : W24} (hodd : wt24 w % 2 = 1) : errorPattern w ≠ none := by
  intro hnone
  have hcheck := forall_v12_of_allBelow candidate_of_odd_all (syndrome w)
  rw [← wt12_eq_weightFast, wt12_syndrome_mod_two, hodd, (noCandidateNat_toNat _).mpr ((locate_eq_none_iff _).mp hnone)] at hcheck
  exact absurd hcheck (by decide)

/-- A pattern found for more than three errors is not the errors, and leads to another codeword. -/
theorem errorPattern_misleads {c e e' : W24} (he : maxErrors < wt24 e) (hpattern : errorPattern (c ^^^ e) = some e') :
    e' ≠ e ∧ wt24 e' ≤ maxErrors ∧ IsCodeword (c ^^^ e ^^^ e') ∧ c ^^^ e ^^^ e' ≠ c := by
  obtain ⟨hcode, hlight⟩ := errorPattern_eq_some_iff.mp hpattern
  have hne : e' ≠ e := fun heq => absurd (heq ▸ hlight) (Nat.not_le.mpr he)
  refine ⟨hne, hlight, hcode, fun hback => hne ?_⟩
  have hzero : e ^^^ e' = 0#24 := by
    rw [← xor_xor_cancel_left c (e ^^^ e'), ← BitVec.xor_assoc c e e', hback, BitVec.xor_self]
  exact (BitVec.xor_eq_zero_iff.mp hzero).symm

/-- Six or eight errors that the locator finds no pattern for. -/
theorem exists_uncorrectable : ∀ n ∈ [6, 8], ∃ e : W24, wt24 e = n ∧ errorPattern e = none := by
  simp only [List.forall_mem_cons, List.not_mem_nil, false_implies, implies_true, and_true]
  exact ⟨⟨0x00003F, by decide⟩, ⟨0x0000FF, by decide⟩⟩

/-- Six or eight errors that it finds another pattern for: a codeword of weight 8, with two ones taken away and as it is. -/
theorem exists_misled : ∀ n ∈ [6, 8], ∃ e e' : W24, wt24 e = n ∧ e' ≠ e ∧ errorPattern e = some e' := by
  simp only [List.forall_mem_cons, List.not_mem_nil, false_implies, implies_true, and_true]
  exact ⟨⟨0x875000, 0x400001, by decide⟩, ⟨0xC75001, 0x000000, by decide⟩⟩

/-- Settles O36: a pattern found misleads; one is found for every odd number of errors, and for six or eight by example. -/
theorem fiveOrMoreErrorsMislead : Obligations.FiveOrMoreErrorsMislead := by
  refine ⟨fun c e hc he => ?_, fun c e hc he => ?_, fun c hc n hn => ⟨?_, ?_⟩⟩
  · cases hpattern : errorPattern (c ^^^ e) with
    | none => exact .inl (answers_eloc_uncorrectable_iff.mpr hpattern)
    | some e' =>
      exact .inr ⟨e', answers_eloc_ok_iff.mpr hpattern, errorPattern_misleads (Nat.lt_of_succ_lt he) hpattern⟩
  · have hfound : errorPattern (c ^^^ e) ≠ none :=
      errorPattern_codeword_xor hc e ▸ errorPattern_ne_none_of_odd (by omega)
    obtain ⟨e', hpattern⟩ := Option.ne_none_iff_exists'.mp hfound
    exact ⟨e', answers_eloc_ok_iff.mpr hpattern, errorPattern_misleads (by rw [maxErrors]; omega) hpattern⟩
  · obtain ⟨e, he, hnone⟩ := exists_uncorrectable n hn
    exact ⟨e, he, answers_eloc_uncorrectable_iff.mpr ((errorPattern_codeword_xor hc e).trans hnone)⟩
  · obtain ⟨e, e', he, hne, hsome⟩ := exists_misled n hn
    exact ⟨e, e', he, hne, answers_eloc_ok_iff.mpr ((errorPattern_codeword_xor hc e).trans hsome)⟩

/-- Settles O37: a pattern is what the operand and a near codeword differ in. -/
theorem uncorrectableIffFarFromTheCode : Obligations.UncorrectableIffFarFromTheCode := fun _ =>
  answers_eloc_uncorrectable_iff.trans errorPattern_eq_none_iff

/-- Settles O38: the codeword with the errors is as far from the codeword as the errors are heavy. -/
theorem decCorrectsUpToThreeErrors : Obligations.DecCorrectsUpToThreeErrors := by
  intro x d e he
  refine ⟨codeword d, answers_encode (.enc x d), answers_dec_ok_iff.mpr (correctedData_eq_some_iff.mpr ?_)⟩
  rwa [distance, BitVec.xor_comm, xor_xor_cancel_left]

/-- Settles O39: the pattern is what the operand and the codeword differ in, and the decoder has one result. -/
theorem decAnswersNearestCodeword : Obligations.DecAnswersNearestCodeword := by
  intro w m hanswer
  have hdata := answers_dec_ok_iff.mp hanswer
  have hnear := correctedData_eq_some_iff.mp hdata
  refine ⟨⟨w ^^^ codeword m, answers_eloc_ok_iff.mpr (errorPattern_eq_some_iff.mpr ⟨?_, hnear⟩), ?_, hnear⟩, fun c hc hdist => ?_⟩
  · rw [xor_xor_cancel_left]
    exact isCodeword_codeword m
  · rw [xor_xor_cancel_left]
  · rw [eq_codeword_low hc] at hdist
    have hsame : some m = some (low c) := hdata.symm.trans (correctedData_eq_some_iff.mpr hdist)
    rw [Option.some.inj hsame, ← eq_codeword_low hc]

theorem distance_xor_xor (a b c : W24) : distance (a ^^^ c) (b ^^^ c) = distance a b := by
  have hcancel : a ^^^ c ^^^ (b ^^^ c) = a ^^^ b := by
    rw [BitVec.xor_comm b, ← BitVec.xor_assoc, xor_xor_cancel_right]
  rw [distance, hcancel, distance]

/-- Settles O40: adding a codeword keeps every distance to a codeword, and the syndrome. -/
theorem decCommutesWithCodewords : Obligations.DecCommutesWithCodewords := by
  refine fun w c hc => ⟨fun m hanswer => answers_dec_ok_iff.mpr (correctedData_eq_some_iff.mpr ?_), ?_⟩
  · show distance (w ^^^ c) (codeword (m ^^^ low c)) ≤ maxErrors
    rw [codeword_xor, ← eq_codeword_low hc, distance_xor_xor]
    exact correctedData_eq_some_iff.mp (answers_dec_ok_iff.mp hanswer)
  · rw [BitVec.xor_comm w]
    exact answers_dec_uncorrectable_iff.trans ((errorPattern_codeword_xor hc w) ▸ answers_dec_uncorrectable_iff.symm)

end Sys2Proof.Machine
end

section
/-! How many syndromes each condition and each step of the locator answers, and the obligation of 43_syndrome_error_locator.md about it:
R57 items 4 and 5. A syndrome that is answered is `a ^ GTF(b)` for one pair of halves with at most three ones together, and the weights
of the halves say which conditions hold; so the counts are products of numbers of halves of given weights. -/

namespace Sys2Proof.Machine

open Sys2Proof

theorem exists_eq_onehot12_iff {v : V12} : (∃ i, v = onehot12 i) ↔ wt12 v = 1 :=
  ⟨fun ⟨i, hi⟩ => hi ▸ wt12_onehot12 i, exists_eq_onehot12_of_wt12_eq_one⟩

/-- A vector of weight 1 is the one-hot vector of one index, another vector of none. -/
theorem countP_eq_onehot12 (v : V12) : (indices12.countP fun i => v = onehot12 i) = if wt12 v = 1 then 1 else 0 := by
  split
  next hone =>
    obtain ⟨i, rfl⟩ := exists_eq_onehot12_of_wt12_eq_one hone
    revert i
    decide
  next hne =>
    refine List.countP_eq_zero.mpr fun i _ => ?_
    rw [decide_eq_true_iff]
    rintro rfl
    exact hne (wt12_onehot12 i)

section
variable {a b : V12} (h : wt12 a + wt12 b ≤ maxErrors)
include h

/-- A condition that holds returns the one light pattern. -/
theorem eq_cat_of_mem_matchingPatterns {e : W24} (he : e ∈ matchingPatterns (a ^^^ gt fwd b)) : e = cat a b := by
  rw [← syndrome_cat] at he
  exact eq_of_mem_matchingPatterns he (cat_mem_matchingPatterns h)

/-- Step 2's condition. -/
theorem wt12_syndrome_le_iff : wt12 (a ^^^ gt fwd b) ≤ 3 ↔ wt12 b = 0 := by
  rw [wt12_eq_zero_iff]
  constructor
  · intro hle
    have heq := eq_cat_of_mem_matchingPatterns h (mem_matchingPatterns.mpr (.inl ⟨hle, rfl⟩))
    simpa using (congrArg low heq).symm
  · rintro rfl
    rw [gt_zero, BitVec.xor_zero]
    exact (Nat.le_add_right _ _).trans h

/-- Step 3's condition for the index `i`. -/
theorem wt12_dataCandidate_le_iff (i : Fin 12) : wt12 (dataCandidate (a ^^^ gt fwd b) i) ≤ thSearch ↔ b = onehot12 i := by
  constructor
  · intro hle
    have heq := eq_cat_of_mem_matchingPatterns h (mem_matchingPatterns.mpr (.inr (.inl ⟨i, hle, rfl⟩)))
    simpa using (congrArg low heq).symm
  · rintro rfl
    rw [dataCandidate_onehot12]
    rw [wt12_onehot12] at h
    exact Nat.le_of_succ_le_succ h

/-- Step 4's condition. -/
theorem wt12_gt_alt_syndrome_le_iff : wt12 (gt alt (a ^^^ gt fwd b)) ≤ 3 ↔ wt12 a = 0 := by
  rw [wt12_eq_zero_iff]
  constructor
  · intro hle
    have heq := eq_cat_of_mem_matchingPatterns h (mem_matchingPatterns.mpr (.inr (.inr (.inl ⟨hle, rfl⟩))))
    simpa using (congrArg high heq).symm
  · rintro rfl
    rw [BitVec.zero_xor, gt_alt_gt_fwd]
    exact (Nat.le_add_left _ _).trans h

/-- Step 5's condition for the index `i`. -/
theorem wt12_parityCandidate_le_iff (i : Fin 12) :
    wt12 (parityCandidate (gt alt (a ^^^ gt fwd b)) i) ≤ thSearch ↔ a = onehot12 i := by
  constructor
  · intro hle
    have heq := eq_cat_of_mem_matchingPatterns h (mem_matchingPatterns.mpr (.inr (.inr (.inr ⟨i, hle, rfl⟩))))
    simpa using (congrArg high heq).symm
  · rintro rfl
    rw [parityCandidate_onehot12]
    rw [wt12_onehot12, Nat.add_comm] at h
    exact Nat.le_of_succ_le_succ h

/-- Step 3 finds a pattern. -/
theorem searchDataBit_isSome_iff : (searchDataBit (a ^^^ gt fwd b)).isSome ↔ wt12 b = 1 := by
  rw [← exists_eq_onehot12_iff, searchDataBit]
  simp [mem_indices12, wt12_dataCandidate_le_iff h]

/-- Step 5 finds a pattern. -/
theorem searchParityBit_isSome_iff : (searchParityBit (gt alt (a ^^^ gt fwd b))).isSome ↔ wt12 a = 1 := by
  rw [← exists_eq_onehot12_iff, searchParityBit]
  simp [mem_indices12, wt12_parityCandidate_le_iff h]

/-- The conditions that hold, counted: a half of weight 0 or 1 makes one hold. -/
theorem length_matchingPatterns : (matchingPatterns (a ^^^ gt fwd b)).length =
    (if wt12 a ≤ 1 then 1 else 0) + (if wt12 b ≤ 1 then 1 else 0) := by
  have hcount (v : V12) : (if wt12 v = 0 then 1 else 0) + (if wt12 v = 1 then 1 else 0) = if wt12 v ≤ 1 then 1 else 0 := by
    split <;> split <;> split <;> omega
  rw [← hcount, ← hcount]
  simp only [matchingPatterns, locatorCandidates, List.length_map, ← List.countP_eq_length_filter, List.cons_append,
    List.countP_cons, List.countP_append, List.countP_map, Function.comp_def, thDirect, decide_eq_true_eq,
    wt12_syndrome_le_iff h, wt12_gt_alt_syndrome_le_iff h, wt12_dataCandidate_le_iff h, wt12_parityCandidate_le_iff h,
    countP_eq_onehot12]
  omega

end

/-- Two pairs of light halves with one syndrome are the same pair. -/
theorem eq_halves_of_syndrome_eq {a b a' b' : V12} (h : wt12 a + wt12 b ≤ maxErrors) (h' : wt12 a' + wt12 b' ≤ maxErrors)
    (hsyn : a ^^^ gt fwd b = a' ^^^ gt fwd b') : a = a' ∧ b = b' := by
  rw [← wt24_cat] at h h'
  rw [← syndrome_cat, ← syndrome_cat] at hsyn
  have hcat := eq_of_syndrome_eq h h' hsyn
  exact ⟨by simpa using congrArg high hcat, by simpa using congrArg low hcat⟩

/-- A syndrome that the locator answers is that of two light halves. -/
theorem exists_light_of_locate_ne_none {s : V12} (hs : locate s ≠ none) :
    ∃ a b, wt12 a + wt12 b ≤ maxErrors ∧ s = a ^^^ gt fwd b := by
  obtain ⟨e, he⟩ := Option.ne_none_iff_exists'.mp hs
  obtain ⟨hsyn, hlight⟩ := mem_matchingPatterns_iff_light.mp (locate_eq_some_iff_mem.mp he)
  refine ⟨high e, low e, ?_, hsyn.symm⟩
  rwa [← wt24_cat, cat_high_low]

/-- The syndromes of the pairs of halves of which one has the property `A` and the other `B`. -/
def syndromeOfHalves {p A B : V12 → Prop} (hp : ∀ a b, A a → B b → p (a ^^^ gt fwd b)) (x : { a // A a } × { b // B b }) :
    { s // p s } := ⟨x.1.1 ^^^ gt fwd x.2.1, hp _ _ x.1.2 x.2.2⟩

/-- The syndromes with a property that says of the two light halves that one has the property `A` and the other `B`: there are as many
as pairs of halves. -/
theorem countV12_of_halves {p A B : V12 → Prop} [DecidablePred p] [DecidablePred A] [DecidablePred B] {m n : Nat}
    (hA : countV12 (fun a => A a) = m) (hB : countV12 (fun b => B b) = n) (hlocated : ∀ s, NoCandidate s → ¬ p s)
    (hlight : ∀ a b, A a → B b → wt12 a + wt12 b ≤ maxErrors)
    (hp : ∀ a b, wt12 a + wt12 b ≤ maxErrors → (p (a ^^^ gt fwd b) ↔ A a ∧ B b)) : countV12 (fun s => p s) = m * n := by
  rw [← hA, ← hB, countV12_eq_card, countV12_eq_card, countV12_eq_card, ← Nat.card_prod]
  have hsyndrome (a b : V12) (ha : A a) (hb : B b) : p (a ^^^ gt fwd b) := (hp a b (hlight a b ha hb)).mpr ⟨ha, hb⟩
  refine (Nat.card_eq_of_bijective (syndromeOfHalves hsyndrome) ⟨?_, ?_⟩).symm
  · rintro ⟨⟨a, ha⟩, ⟨b, hb⟩⟩ ⟨⟨a', ha'⟩, ⟨b', hb'⟩⟩ heq
    have hsyn : a ^^^ gt fwd b = a' ^^^ gt fwd b' := congrArg Subtype.val heq
    obtain ⟨rfl, rfl⟩ := eq_halves_of_syndrome_eq (hlight a b ha hb) (hlight a' b' ha' hb') hsyn
    rfl
  · rintro ⟨s, hs⟩
    obtain ⟨a, b, hab, rfl⟩ := exists_light_of_locate_ne_none fun hnone => hlocated s ((locate_eq_none_iff s).mp hnone) hs
    obtain ⟨ha, hb⟩ := (hp a b hab).mp hs
    exact ⟨⟨⟨a, ha⟩, ⟨b, hb⟩⟩, rfl⟩

/-- Step 3 answers: at most two parity bits and one data bit are in error. -/
theorem countV12_searchDataBit : countV12 (fun s => 3 < wt12 s ∧ (searchDataBit s).isSome) = 79 * 12 := by
  refine countV12_of_halves (A := fun a => wt12 a ≤ 2) (B := fun b => wt12 b = 1) (countV12_wt12_le 2) (countV12_wt12 1) ?_ ?_ ?_
  · rintro s ⟨-, h3, -, -⟩ ⟨-, hsome⟩
    simp [searchDataBit_eq_none h3] at hsome
  · intro a b ha hb
    rw [maxErrors]
    omega
  · intro a b hab
    rw [← Nat.not_le, wt12_syndrome_le_iff hab, searchDataBit_isSome_iff hab]
    rw [maxErrors] at hab
    omega

/-- Step 4 answers: two or three data bits are in error. -/
theorem countV12_lightAlternate :
    countV12 (fun s => 3 < wt12 s ∧ searchDataBit s = none ∧ wt12 (gt alt s) ≤ 3) = 1 * (66 + 220) := by
  have htwoOrThree : countV12 (fun b => wt12 b = 2 ∨ wt12 b = 3) = 66 + 220 :=
    countV12_or (countV12_wt12 2) (countV12_wt12 3) (fun _ => Iff.rfl) fun _ => by omega
  refine countV12_of_halves (A := fun a => wt12 a = 0) (B := fun b => wt12 b = 2 ∨ wt12 b = 3) (countV12_wt12 0) htwoOrThree
    ?_ ?_ ?_
  · rintro s ⟨-, -, h4, -⟩ ⟨-, -, hle⟩
    exact h4 hle
  · intro a b ha hb
    rw [maxErrors]
    omega
  · intro a b hab
    rw [← Nat.not_le, wt12_syndrome_le_iff hab, ← Option.not_isSome_iff_eq_none, searchDataBit_isSome_iff hab,
      wt12_gt_alt_syndrome_le_iff hab]
    rw [maxErrors] at hab
    omega

/-- Step 5 answers: one parity bit and two data bits are in error. -/
theorem countV12_searchParityBit : countV12 (fun s => 3 < wt12 s ∧ searchDataBit s = none ∧ 3 < wt12 (gt alt s) ∧
    (searchParityBit (gt alt s)).isSome) = 12 * 66 := by
  refine countV12_of_halves (A := fun a => wt12 a = 1) (B := fun b => wt12 b = 2) (countV12_wt12 1) (countV12_wt12 2) ?_ ?_ ?_
  · rintro s ⟨-, -, -, h5⟩ ⟨-, -, -, hsome⟩
    simp [searchParityBit_eq_none h5] at hsome
  · intro a b ha hb
    rw [maxErrors]
    omega
  · intro a b hab
    rw [← Nat.not_le, wt12_syndrome_le_iff hab, ← Option.not_isSome_iff_eq_none, searchDataBit_isSome_iff hab, ← Nat.not_le,
      wt12_gt_alt_syndrome_le_iff hab, searchParityBit_isSome_iff hab]
    rw [maxErrors] at hab
    omega

/-- Step 6 answers. -/
theorem countV12_locate_eq_none : countV12 (fun s => locate s = none) = 1771 :=
  (countV12_congr locate_eq_none_iff).trans countV12_noCandidate

theorem matchingPatterns_eq_nil_iff {s : V12} : matchingPatterns s = [] ↔ locate s = none := by
  rw [← locateParallel_eq_locate, locateParallel, List.head?_eq_none_iff]

/-- No syndrome satisfies more than two conditions. -/
theorem length_matchingPatterns_le (s : V12) : (matchingPatterns s).length ≤ 2 := by
  by_cases hs : locate s = none
  · rw [matchingPatterns_eq_nil_iff.mpr hs]
    exact Nat.zero_le 2
  · obtain ⟨a, b, hab, rfl⟩ := exists_light_of_locate_ne_none hs
    rw [length_matchingPatterns hab]
    split <;> split <;> decide

theorem countV12_no_pattern : countV12 (fun s => (matchingPatterns s).length = 0) = 1771 :=
  (countV12_congr fun _ => List.length_eq_zero_iff.trans matchingPatterns_eq_nil_iff).trans countV12_locate_eq_none

/-- Two conditions hold where each half has at most one error. -/
theorem countV12_two_patterns : countV12 (fun s => (matchingPatterns s).length = 2) = 13 * 13 := by
  refine countV12_of_halves (A := fun a => wt12 a ≤ 1) (B := fun b => wt12 b ≤ 1) (countV12_wt12_le 1) (countV12_wt12_le 1)
    ?_ ?_ ?_
  · intro s hs hlength
    rw [matchingPatterns_eq_nil_iff.mpr ((locate_eq_none_iff s).mpr hs)] at hlength
    cases hlength
  · intro a b ha hb
    rw [maxErrors]
    omega
  · intro a b hab
    rw [length_matchingPatterns hab]
    split <;> split <;> omega

theorem countV12_not {p : V12 → Prop} [DecidablePred p] {n : Nat} (h : countV12 (fun v => p v) = n) :
    countV12 (fun v => ¬ p v) = 4096 - n := by
  have hall : countV12 (fun v => p v ∨ ¬ p v) = 4096 := by
    simp only [countV12, em, decide_true, List.countP_true, List.length_range]
  rw [← hall, countV12_or h rfl (fun _ => Iff.rfl) fun _ hp hn => hn hp, Nat.add_sub_cancel_left]

/-- One condition holds for the other syndromes. -/
theorem countV12_one_pattern : countV12 (fun s => (matchingPatterns s).length = 1) = 4096 - (1771 + 13 * 13) := by
  rw [← countV12_not (countV12_or countV12_no_pattern countV12_two_patterns (fun _ => Iff.rfl) fun _ => by omega)]
  refine countV12_congr fun s => ?_
  have hle := length_matchingPatterns_le s
  omega

/-- The received words with a property of their syndrome, from a count of syndromes. -/
theorem card_words_of_countV12 {p : V12 → Prop} [DecidablePred p] {n : Nat} (h : countV12 (fun s => p s) = n) :
    Nat.card { w : W24 // p (syndrome w) } = n * 4096 := by
  rw [← h, card_words_of_syndrome, countV12_eq_card]

theorem card_errorPattern_eq_none : Nat.card { w : W24 // errorPattern w = none } = 1771 * 4096 :=
  card_words_of_countV12 countV12_locate_eq_none

theorem card_errorPattern_isSome : Nat.card { w : W24 // (errorPattern w).isSome } = (4096 - 1771) * 4096 := by
  simp only [Option.isSome_iff_ne_none]
  exact card_words_of_countV12 (countV12_not countV12_locate_eq_none)

/-- Settles O32: products of numbers of light halves, the syndromes without a candidate, and 4096 words for each syndrome. -/
theorem locatorCounts : Obligations.LocatorCounts :=
  ⟨⟨countV12_no_pattern, countV12_one_pattern, countV12_two_patterns⟩, ⟨countV12_wt12_le 3, countV12_searchDataBit,
    countV12_lightAlternate, countV12_searchParityBit, countV12_locate_eq_none⟩, card_errorPattern_isSome,
    card_errorPattern_eq_none⟩

end Sys2Proof.Machine
end
